-- ==== Sys2Proof/Word.lean ====
section
/-! DEFINITION. The word types of the block: bytes (R10, D31), the 16-bit checksum (R10) and the 32-bit counters (R27). -/

namespace Sys2Proof

/-- A byte, an unsigned 8-bit value (R10). -/
abbrev Byte := BitVec 8

/-- `u16`, the width of the checksum and of the CRC register (R10, R24). -/
abbrev Word := BitVec 16

/-- A statistics counter, `STATS_W = 32` bits, wrapping (R27, D9). -/
abbrev Counter := BitVec 32

end Sys2Proof
end

