-- ==== Sys2Proof/Config.lean ====
section
/-! DEFINITION. What is fixed for one machine: the parameters of 00_scope R7, the names of channels, rings and agents, the
form of a command-table entry (R25), and the constants the spec leaves OPEN, which have no value here. -/

namespace Sys2Proof

/-- A transport: `ch0` is serial, `ch1` is USB (R7, D3). -/
inductive Channel where
  | ch0
  | ch1
deriving DecidableEq, Repr

/-- A ring: `inb ch` is `IN(ch)`, ring number `2*ch`; `outb ch` is `OUT(ch)`, ring number `2*ch + 1` (R7, R20). -/
inductive RingId where
  | inb (ch : Channel)
  | outb (ch : Channel)
deriving DecidableEq, Repr

/-- The five agents that take steps (R9, R248). -/
inductive Agent where
  | main
  | rx (ch : Channel)
  | tx (ch : Channel)
deriving DecidableEq, Repr

/-- What runs when a frame is dispatched: the two handlers the spec fixes (R176, R188), or one outside the block (R5, R7). -/
inductive Handler where
  | ping
  | readKeypad
  | external
deriving DecidableEq, Repr

/-- A command-table entry (R25, R170). `handler = none` is an entry without a handler, which R170 (c) calls ill-formed. -/
structure Descriptor where
  commandId : Byte
  min : Nat
  max : Nat
  handler : Option Handler
deriving DecidableEq, Repr

/-- A byte storage of the block: the cells of a ring (R50) or the staging bytes of a channel (R51). -/
inductive Space where
  | ring (r : RingId)
  | stage (ch : Channel)
deriving DecidableEq, Repr

namespace Config

/-- `C`: usable bytes of a ring (R7). -/
abbrev ringCapacity : Nat := 128

/-- `C + 1`: cells of a ring store (R7, R20). -/
abbrev storeSize : Nat := 129

/-- `HDR` (R7). -/
abbrev headerSize : Nat := 2

/-- `CKS` (R7). -/
abbrev checksumSize : Nat := 2

/-- `MIN_FRAME` (R7). -/
abbrev minFrame : Nat := 4

/-- `PAYLOAD_MAX` (R7, D5). -/
abbrev payloadMax : Nat := 252

/-- `STAGE_CAP` (R7, D4). -/
abbrev stageCap : Nat := 256

/-- `TX_CHUNK` less one: OPEN, any natural (R7, D20, I9). No value: log entry 6. -/
opaque txChunkLess1 : Nat

/-- `PING_ECHO`: OPEN, the ping handler's response payload for a non-empty request (R176, D27, I10). No value: log entry 7. -/
opaque pingEcho : List Byte → List Byte

/-- What a cell that nothing has written reads as: any value (I2, I5), read in no reachable state (R23). No value: log entry 4. -/
opaque unwrittenCell : Space → Nat → Byte

/-- The parameters a model takes as arguments (R7): the entries `COMMAND_TABLE` has after the listed ones, and `TX_CHUNK` kept less
one, so that it is at least 1. -/
structure Params where
  extra : List Descriptor
  txChunkLess1 : Nat
deriving DecidableEq, Repr

/-- `TX_CHUNK`, the most bytes of one hardware transmission (R7, R212). -/
def Params.txChunk (p : Params) : Nat := p.txChunkLess1 + 1

end Config

end Sys2Proof
end

