-- ==== Sys2Proof/Machine/CommandTable.lean ====
section
/-! DEFINITION. The command table: its 13 listed entries (R76, R171), lookup (R142), the accepted payload range (R143) and
when a table is well-formed (R170). -/

namespace Sys2Proof.Machine

/-- The 13 entries with the minimum and the LISTED maximum, in the order of R76. -/
def listedTable : List Descriptor :=
  [ ⟨0x00#8, 0, 255, some .ping⟩,        -- ping
    ⟨0x02#8, 16, 16, some .external⟩,    -- write-flash
    ⟨0x03#8, 16, 16, some .external⟩,    -- read-flash
    ⟨0x05#8, 3, 3, some .external⟩,      -- reset
    ⟨0x06#8, 0, 0, some .external⟩,      -- clear-screen
    ⟨0x0B#8, 2, 2, some .external⟩,      -- set-cursor-position
    ⟨0x0C#8, 1, 1, some .external⟩ ] ++  -- set-cursor-style
  [ ⟨0x0D#8, 1, 1, some .external⟩,      -- set-contrast
    ⟨0x0E#8, 1, 1, some .external⟩,      -- set-backlight
    ⟨0x17#8, 2, 2, some .external⟩,      -- configure-key-report
    ⟨0x18#8, 0, 0, some .readKeypad⟩,    -- read-keypad
    ⟨0x1F#8, 3, 22, some .external⟩,     -- send-data-to-display
    ⟨0x22#8, 0, 255, some .external⟩ ]   -- configure-gpio

/-- `COMMAND_TABLE`: the listed entries and the further ones of the parameter (R7, R171). -/
def tableOf (p : Config.Params) : List Descriptor := listedTable ++ p.extra

/-- `lookup(id)`: the first descriptor with that id (R142). -/
def lookup (table : List Descriptor) (id : Byte) : Option Descriptor :=
  table.find? (fun d => d.commandId == id)

/-- The handler the entry of an id names (R25, R173). -/
def handlerOf (table : List Descriptor) (id : Byte) : Option Handler := (lookup table id).bind Descriptor.handler

/-- `eff_max(d) = min(d.max, PAYLOAD_MAX)` (R143, C1). -/
def effMax (d : Descriptor) : Nat := min d.max Config.payloadMax

/-- `d` accepts a declared payload size `n` (R143). -/
def accepts (d : Descriptor) (n : Nat) : Bool := decide (d.min ≤ n) && decide (n ≤ effMax d)

/-- R170: the ids are distinct, `min <= max <= 255`, and every entry has a handler. -/
def tableWf (table : List Descriptor) : Bool :=
  match table with
  | [] => true
  | d :: rest =>
    rest.all (fun e => e.commandId != d.commandId) && decide (d.min ≤ d.max) && decide (d.max ≤ 255) &&
      d.handler.isSome && tableWf rest

end Sys2Proof.Machine
end

