-- ==== Sys2Proof/Syntax.lean ====
section
/-! DEFINITION. The abstract syntax: one constructor for each row of spec/opcode_table.json, and the request tuple that
carries a port operation (R81). -/

namespace Sys2Proof

/-- A request, `(op : u8, a : u8, n : natural, bytes : byte sequence)` (R81). -/
structure Request where
  op : Byte
  a : Byte
  n : Nat
  bytes : List Byte
deriving DecidableEq, Repr

/-- The 15 port operations (R80) and the 13 commands (R76). A command carries the payload of its frame. -/
inductive Instr where
  | ringInit (r : RingId)
  | ringPut (r : RingId) (bytes : List Byte)
  | ringGet (r : RingId) (max : Nat)
  | ringUsed (r : RingId)
  | crcInit
  | crcStep (b : Byte)
  | crcRead
  | decFill (ch : Channel)
  | decPass (ch : Channel)
  | hndRet (status : Byte)
  | encNorm (ch : Channel) (bytes : List Byte)
  | encDev (ch : Channel) (bytes : List Byte)
  | txStart (ch : Channel)
  | txDone (ch : Channel)
  | statRead (i : BitVec 3)
  | cmdPing (payload : List Byte)
  | cmdWriteFlash (payload : List Byte)
  | cmdReadFlash (payload : List Byte)
  | cmdReset (payload : List Byte)
  | cmdClearScreen (payload : List Byte)
  | cmdSetCursorPosition (payload : List Byte)
  | cmdSetCursorStyle (payload : List Byte)
  | cmdSetContrast (payload : List Byte)
  | cmdSetBacklight (payload : List Byte)
  | cmdConfigureKeyReport (payload : List Byte)
  | cmdReadKeypad (payload : List Byte)
  | cmdSendDataToDisplay (payload : List Byte)
  | cmdConfigureGpio (payload : List Byte)
deriving DecidableEq, Repr

end Sys2Proof
end

