-- ==== Sys2Proof/Machine/Operands.lean ====
section
/-! DEFINITION. The operand forms of R81, the ring and channel numbering of R7, and the byte helpers of R11. -/

namespace Sys2Proof.Machine

/-- Ring number `r = a[1:0]` (R7, R81). -/
def ringOfBits (b : BitVec 2) : RingId :=
  match b with
  | 0#2 => .inb .ch0
  | 1#2 => .outb .ch0
  | 2#2 => .inb .ch1
  | 3#2 => .outb .ch1

/-- The number of a ring as an operand byte: `IN(ch) = 2*ch`, `OUT(ch) = 2*ch + 1` (R7). -/
def ringByte (r : RingId) : Byte :=
  match r with
  | .inb .ch0 => 0
  | .outb .ch0 => 1
  | .inb .ch1 => 2
  | .outb .ch1 => 3

/-- Channel number `ch = a[0]` (R81). -/
def channelOfBit (b : Bool) : Channel := if b then .ch1 else .ch0

/-- The number of a channel as an operand byte (R7). -/
def channelByte (ch : Channel) : Byte :=
  match ch with
  | .ch0 => 0
  | .ch1 => 1

/-- Format `P-R`: the ring, where `a[7:2]` is 0 (R81). -/
def formR (a : Byte) : Option RingId :=
  if a.extractLsb' 2 6 = 0#6 then some (ringOfBits (a.extractLsb' 0 2)) else none

/-- The ring of formats `P-RB` and `P-RN`: `a[1:0]`, the other bits unused and ignored (R81). -/
def formRB (a : Byte) : RingId := ringOfBits (a.extractLsb' 0 2)

/-- Format `P-C`: the channel, where `a[7:1]` is 0 (R81). -/
def formC (a : Byte) : Option Channel :=
  if a.extractLsb' 1 7 = 0#7 then some (channelOfBit (a.getLsbD 0)) else none

/-- The channel of format `P-CB`: `a[0]`, the other bits unused and ignored (R81). -/
def formCB (a : Byte) : Channel := channelOfBit (a.getLsbD 0)

/-- Format `P-I`: `i = a[2:0]`, which must be 0..6 (R81). -/
def formI (a : Byte) : Option (BitVec 3) :=
  if a.extractLsb' 0 3 = 7#3 then none else some (a.extractLsb' 0 3)

/-- `le16(lo, hi)` (R11). -/
def le16 (lo hi : Byte) : Word := lo.setWidth 16 ||| (hi.setWidth 16 <<< 8)

/-- `le_bytes(v)`, low byte first (R11, R55). -/
def leBytes (v : Word) : List Byte := [v.setWidth 8, (v >>> 8).setWidth 8]

/-- Element `i` of a byte sequence; the rules read inside its length only (R11). -/
def byteAt (s : List Byte) (i : Nat) : Byte := s.getD i 0

/-- `last(k, s)`: the last `k` elements (R11). -/
def lastBytes (k : Nat) (s : List Byte) : List Byte := s.drop (s.length - k)

/-- The header and payload `[id, len(p)] ++ p` (R70, R75). -/
def headerAndPayload (id : Byte) (p : List Byte) : List Byte := id :: BitVec.ofNat 8 p.length :: p

end Sys2Proof.Machine
end

