-- ==== Sys2Proof/Machine/Crc.lean ====
section
/-! DEFINITION. The checksum: the generated table (R122), the running register (R121), `CRC16` (R120), and the frame constructors
(R70, R75). -/

namespace Sys2Proof.Machine

/-- One shift of the reflected polynomial 0x8408 (R122, R123). -/
def crcShift (c : Word) : Word :=
  if c.getLsbD 0 then (c >>> 1) ^^^ 0x8408#16 else c >>> 1

/-- Eight shifts (R122, R123). -/
def crcShift8 (c : Word) : Word :=
  crcShift (crcShift (crcShift (crcShift (crcShift (crcShift (crcShift (crcShift c)))))))

/-- The table entry `T[i]`, from its generation loop (R122). -/
def crcTable (i : Byte) : Word := crcShift8 (i.setWidth 16)

/-- One table step: `(c >> 8) ^ T[(c ^ b) & 0xFF]` (R120, R121). -/
def crcStep (c : Word) (b : Byte) : Word :=
  (c >>> 8) ^^^ crcTable ((c ^^^ b.setWidth 16).setWidth 8)

/-- `crc_reg(s)`: the register after the bytes of `s`, before the complement (R121). -/
def crcReg (s : List Byte) : Word := s.foldl crcStep 0xFFFF#16

/-- `CRC16(s)` (R120). -/
def crc16 (s : List Byte) : Word := ~~~ crcReg s

/-- A header and payload followed by their checksum, little-endian (R70, R192). -/
def withChecksum (b : List Byte) : List Byte := b ++ leBytes (crc16 b)

/-- `FRAME(id, p)` (R75). -/
def frameOf (id : Byte) (p : List Byte) : List Byte := withChecksum (headerAndPayload id p)

/-- `RESP(id, p)`, a device response (R74, R75). -/
def respOf (id : Byte) (p : List Byte) : List Byte := frameOf (id ||| 0x40#8) p

end Sys2Proof.Machine
end

