-- ==== Sys2Proof/WellFormed.lean ====
section
/-! DEFINITION. When an instruction is well-formed: a counter index is 0..6 (R81), and a command's payload has a length its
table entry accepts (R76, R143). Ring and channel operands are well-formed by their types. -/

namespace Sys2Proof

/-- The payload length is one the listed entry of `id` accepts (R76, R143). -/
def payloadOk (id : Byte) (payload : List Byte) : Bool :=
  match Machine.lookup Machine.listedTable id with
  | some d => Machine.accepts d payload.length
  | none => false

/-- Well-formed instructions (R81, R76). -/
def Instr.wf (i : Instr) : Bool :=
  match i with
  | .ringInit _ => true
  | .ringPut _ _ => true
  | .ringGet _ _ => true
  | .ringUsed _ => true
  | .crcInit => true
  | .crcStep _ => true
  | .crcRead => true
  | .decFill _ => true
  | .decPass _ => true
  | .hndRet _ => true
  | .encNorm _ _ => true
  | .encDev _ _ => true
  | .txStart _ => true
  | .txDone _ => true
  | .statRead i => decide (i ≠ 7#3)
  | .cmdPing p => payloadOk 0x00#8 p
  | .cmdWriteFlash p => payloadOk 0x02#8 p
  | .cmdReadFlash p => payloadOk 0x03#8 p
  | .cmdReset p => payloadOk 0x05#8 p
  | .cmdClearScreen p => payloadOk 0x06#8 p
  | .cmdSetCursorPosition p => payloadOk 0x0B#8 p
  | .cmdSetCursorStyle p => payloadOk 0x0C#8 p
  | .cmdSetContrast p => payloadOk 0x0D#8 p
  | .cmdSetBacklight p => payloadOk 0x0E#8 p
  | .cmdConfigureKeyReport p => payloadOk 0x17#8 p
  | .cmdReadKeypad p => payloadOk 0x18#8 p
  | .cmdSendDataToDisplay p => payloadOk 0x1F#8 p
  | .cmdConfigureGpio p => payloadOk 0x22#8 p

end Sys2Proof
end

