-- ==== Sys2Proof/Decode.lean ====
section
/-! DEFINITION. The decoder, total on any request and any bytes, and after it the encoder. There are two encoding spaces:
requests, selected by `op` (R80, R81), and the header and payload of a frame, selected by its first byte (R70, R76). -/

namespace Sys2Proof

/-- Why the decoder gives no instruction. -/
inductive DecodeError where
  /-- The code is not in the table of R80 (R235 (a)). -/
  | unknownOperation (op : Byte)
  /-- A nonzero must-be-0 field, or a counter index of 7 (R81, R235 (b)). -/
  | illFormedOperand (op a : Byte)
  /-- Fewer than the two header bytes (R70). -/
  | noHeader
  /-- Fewer payload bytes than the header declares (R70, R71). -/
  | truncatedPayload
  /-- No listed command has this id (R77). -/
  | unknownCommand (id : Byte)
deriving DecidableEq, Repr

/-- An operand form that may refuse its operand byte (R81). -/
def operandOr (r : Request) (operand : Option α) (make : α → Instr) : Except DecodeError Instr :=
  match operand with
  | some x => .ok (make x)
  | none => .error (.illFormedOperand r.op r.a)

/-- The port operation a request names (R80), with the operands of its format (R81). -/
def decodeRequest (r : Request) : Except DecodeError Instr :=
  match r.op with
  | 0x01#8 => operandOr r (Machine.formR r.a) .ringInit
  | 0x02#8 => .ok (.ringPut (Machine.formRB r.a) r.bytes)
  | 0x03#8 => .ok (.ringGet (Machine.formRB r.a) r.n)
  | 0x04#8 => operandOr r (Machine.formR r.a) .ringUsed
  | 0x10#8 => .ok .crcInit
  | 0x11#8 => .ok (.crcStep r.a)
  | 0x12#8 => .ok .crcRead
  | 0x20#8 => operandOr r (Machine.formC r.a) .decFill
  | 0x21#8 => operandOr r (Machine.formC r.a) .decPass
  | 0x22#8 => .ok (.hndRet r.a)
  | 0x30#8 => .ok (.encNorm (Machine.formCB r.a) r.bytes)
  | 0x31#8 => .ok (.encDev (Machine.formCB r.a) r.bytes)
  | 0x40#8 => operandOr r (Machine.formC r.a) .txStart
  | 0x41#8 => operandOr r (Machine.formC r.a) .txDone
  | 0x50#8 => operandOr r (Machine.formI r.a) .statRead
  | op => .error (.unknownOperation op)

/-- The listed command of an id, with its payload (R76). -/
def commandOf (id : Byte) (payload : List Byte) : Option Instr :=
  match id with
  | 0x00#8 => some (.cmdPing payload)
  | 0x02#8 => some (.cmdWriteFlash payload)
  | 0x03#8 => some (.cmdReadFlash payload)
  | 0x05#8 => some (.cmdReset payload)
  | 0x06#8 => some (.cmdClearScreen payload)
  | 0x0B#8 => some (.cmdSetCursorPosition payload)
  | 0x0C#8 => some (.cmdSetCursorStyle payload)
  | 0x0D#8 => some (.cmdSetContrast payload)
  | 0x0E#8 => some (.cmdSetBacklight payload)
  | 0x17#8 => some (.cmdConfigureKeyReport payload)
  | 0x18#8 => some (.cmdReadKeypad payload)
  | 0x1F#8 => some (.cmdSendDataToDisplay payload)
  | 0x22#8 => some (.cmdConfigureGpio payload)
  | _ => none

/-- The command at the front of a byte sequence, read from its header and payload, with the bytes that follow them (R70 to R72,
R76). What the frame decoder checks besides (payload range, completeness, checksum) is `Machine.judge`. -/
def decodeCommand (f : List Byte) : Except DecodeError (Instr × List Byte) :=
  match f with
  | id :: n :: rest =>
    if rest.length < n.toNat then .error .truncatedPayload
    else
      match commandOf id (rest.take n.toNat) with
      | some i => .ok (i, rest.drop n.toNat)
      | none => .error (.unknownCommand id)
  | _ => .error .noHeader

/-- An encoded instruction: a request, or the header and payload of a frame. -/
inductive Encoded where
  | request (r : Request)
  | command (f : List Byte)
deriving DecidableEq, Repr

/-- The decoder of both spaces. -/
def decode (e : Encoded) : Except DecodeError Instr :=
  match e with
  | .request r => decodeRequest r
  | .command f =>
    match decodeCommand f with
    | .ok (i, _) => .ok i
    | .error x => .error x

/-! ### The encoder -/

/-- A request without byte operands and without a count. -/
def plainRequest (op a : Byte) : Encoded := .request ⟨op, a, 0, []⟩

/-- The encoding of an instruction, from R80, R81 and R70, R76. -/
def encode (i : Instr) : Encoded :=
  match i with
  | .ringInit r => plainRequest 0x01#8 (Machine.ringByte r)
  | .ringPut r bytes => .request ⟨0x02#8, Machine.ringByte r, 0, bytes⟩
  | .ringGet r max => .request ⟨0x03#8, Machine.ringByte r, max, []⟩
  | .ringUsed r => plainRequest 0x04#8 (Machine.ringByte r)
  | .crcInit => plainRequest 0x10#8 0
  | .crcStep b => plainRequest 0x11#8 b
  | .crcRead => plainRequest 0x12#8 0
  | .decFill ch => plainRequest 0x20#8 (Machine.channelByte ch)
  | .decPass ch => plainRequest 0x21#8 (Machine.channelByte ch)
  | .hndRet status => plainRequest 0x22#8 status
  | .encNorm ch bytes => .request ⟨0x30#8, Machine.channelByte ch, 0, bytes⟩
  | .encDev ch bytes => .request ⟨0x31#8, Machine.channelByte ch, 0, bytes⟩
  | .txStart ch => plainRequest 0x40#8 (Machine.channelByte ch)
  | .txDone ch => plainRequest 0x41#8 (Machine.channelByte ch)
  | .statRead i => plainRequest 0x50#8 (i.setWidth 8)
  | .cmdPing p => .command (Machine.headerAndPayload 0x00#8 p)
  | .cmdWriteFlash p => .command (Machine.headerAndPayload 0x02#8 p)
  | .cmdReadFlash p => .command (Machine.headerAndPayload 0x03#8 p)
  | .cmdReset p => .command (Machine.headerAndPayload 0x05#8 p)
  | .cmdClearScreen p => .command (Machine.headerAndPayload 0x06#8 p)
  | .cmdSetCursorPosition p => .command (Machine.headerAndPayload 0x0B#8 p)
  | .cmdSetCursorStyle p => .command (Machine.headerAndPayload 0x0C#8 p)
  | .cmdSetContrast p => .command (Machine.headerAndPayload 0x0D#8 p)
  | .cmdSetBacklight p => .command (Machine.headerAndPayload 0x0E#8 p)
  | .cmdConfigureKeyReport p => .command (Machine.headerAndPayload 0x17#8 p)
  | .cmdReadKeypad p => .command (Machine.headerAndPayload 0x18#8 p)
  | .cmdSendDataToDisplay p => .command (Machine.headerAndPayload 0x1F#8 p)
  | .cmdConfigureGpio p => .command (Machine.headerAndPayload 0x22#8 p)

/-- The byte of an encoding that selects its table row: `op` of a request (R80), `f[0]` of a frame (R76). -/
def selector (e : Encoded) : Option Byte :=
  match e with
  | .request r => some r.op
  | .command f => f.head?

/-! ### The host's reading of a table word -/

/-- The first `k` bytes of a word, byte 0 its least significant. -/
def wordBytes (k w : Nat) : List Byte := (List.range k).map (fun i => BitVec.ofNat 8 (w >>> (8 * i)))

/-- The request a table word stands for: `op` is its first byte, `a` its second, no count and no bytes. -/
def requestOfWord (w : Nat) : Request := ⟨BitVec.ofNat 8 w, BitVec.ofNat 8 (w >>> 8), 0, []⟩

/-- A table word read as a request. -/
def requestInstr (w : Nat) : Option Instr :=
  match decodeRequest (requestOfWord w) with
  | .ok i => some i
  | .error _ => none

/-- A table word read as the front of a frame, zeros following it up to the longest header and payload. -/
def commandInstr (w : Nat) : Option Instr :=
  match decodeCommand (wordBytes 257 w) with
  | .ok (i, _) => some i
  | .error _ => none

/-- The instruction of a table word. The table gives a port operation its 8-bit code alone and a frame its first bytes, so a word
of one byte is read as a request where it names a port operation and as a frame otherwise; a longer one the other way round. The one
word that two rows share is 0x22, HND.RET and CMD.configure-gpio: it is read as HND.RET (log entry 11). -/
def decodeTableWord (nbits w : Nat) : Option Instr :=
  let v := w % 2 ^ nbits
  if nbits ≤ 8 then (requestInstr v).orElse (fun _ => commandInstr v)
  else (commandInstr v).orElse (fun _ => requestInstr v)

end Sys2Proof
end

