-- ==== Sys2Proof/Machine/State.lean ====
section
/-! DEFINITION. The state of the block (10_state), its outputs (R12, R15, R34), the inputs still to come, the reasons a step can
stop, and the state after reset (R260). -/

namespace Sys2Proof.Machine

/-- A byte storage: the cells written so far with their bytes, cell numbers strictly rising. A cell not listed has no value (R20,
R26). -/
abbrev Cells := List Host.Cell

/-- One ring: its 129 cells, the next byte to read and the next write position (R20). -/
structure Ring where
  store : Cells
  head : Fin Config.storeSize
  tail : Fin Config.storeSize
deriving DecidableEq, Repr

/-- One staging buffer and its fill length (R26). -/
structure Staging where
  cells : Cells
  fill : Nat
deriving DecidableEq, Repr

/-- A transmit latch and the chunk it guards (R29). -/
structure Latch where
  busy : Bool
  chunk : List Byte
deriving DecidableEq, Repr

/-- The seven protocol statistics counters, in index order (R27). -/
structure Stats where
  framesAttempted : Counter
  badId : Counter
  badSize : Counter
  badChecksum : Counter
  incomplete : Counter
  dispatched : Counter
  dispatchedCompleted : Counter
deriving DecidableEq, Repr

/-- The record of a running handler (R30). -/
structure HandlerRun where
  ch : Channel
  id : Byte
  frame : List Byte
  size : Nat
  sends : Nat
deriving DecidableEq, Repr

/-- The control state of the decoder and dispatcher (R30). -/
inductive DecState where
  | idle
  | inHandler (h : HandlerRun)
deriving DecidableEq, Repr

/-- The model fault reasons of R235, the values of the mark `faulted` (R31, R236). -/
inductive FaultReason where
  | ringOwnership
  | crcOwnership
  | crcUninitialised
  | decoderOwnership
  | decoderReentry
  | handlerContract
  | handlerIllegalOp
  | encoderOwnership
  | encoderSize
  | txLatch
deriving DecidableEq, Repr

/-- The protocol error events with the information each records (R230, R102). -/
inductive Event where
  | unknownCommand (ch : Channel) (id : Byte)
  | payloadSizeOutOfRange (ch : Channel) (id n : Byte)
  | checksumMismatch (ch : Channel) (id : Byte) (computed received : Word)
  | incompleteFrame (ch : Channel) (id : Byte) (fill req : Nat)
  | ringOverrun (r : RingId) (dropped : Nat)
deriving DecidableEq, Repr

/-- What a step returns to the agent that issued it (R12, R34); `none` where its rule returns nothing. -/
inductive Result where
  | none
  | count (n : Nat)
  | got (n : Nat) (out : List Byte)
  | checksum (v : Word)
  | noCommand
  | dispatched
  | commandProcessed
  | counter (v : Counter)
deriving DecidableEq, Repr

/-- One handler invocation of the observation (R15, R173). -/
structure Invocation where
  ch : Channel
  id : Byte
  frame : List Byte
deriving DecidableEq, Repr

/-- The draws of a handler step (R9, R12): the keypad's bitmask (R188), and what an external handler answers (R172): whether through
ENC.DEV or ENC.NORM, the id byte and the payload of its buffer, and its status (R174). -/
structure Draw where
  keys : Byte
  replyDevice : Bool
  replyId : Byte
  replyPayload : List Byte
  status : Byte
deriving DecidableEq, Repr

/-- One input of the schedule (R9, R263): an agent's request, a step of the running handler with its draws, or the reset event. -/
inductive Input where
  | port (agent : Agent) (request : Request)
  | handler (draw : Draw)
  | reset
deriving DecidableEq, Repr

/-- The state of the block (R35), its outputs, its configuration and the inputs still to come. -/
structure State where
  in0 : Ring
  out0 : Ring
  in1 : Ring
  out1 : Ring
  crcAcc : Word
  crcValid : Bool
  stage0 : Staging
  stage1 : Staging
  stats : Stats
  lastKeys : Byte
  tx0 : Latch
  tx1 : Latch
  decState : DecState
  faulted : Option FaultReason
  wire0 : List Byte
  wire1 : List Byte
  invocations : List Invocation
  events : List Event
  result : Result
  config : Config.Params
  agent : Agent
  draw : Draw
  pending : List Input
deriving DecidableEq, Repr

/-- Why the machine stops. -/
inductive Fault where
  /-- Raised by `step` alone, in a state whose fault mark is set and whose next input is not the reset event: no agent takes a further
  step (R31, R237). Safe: the machine stops where the spec says it stops. -/
  | halted (r : FaultReason)
deriving DecidableEq, Repr

/-- The inputs the model gives no meaning (R235). -/
inductive Refusal where
  /-- Raised by an arm of `exec` whose instruction has no meaning yet. Safe: nothing is proved of it. -/
  | notModelled (mnemonic : String)
  /-- Raised by `step` for a request or a handler frame the decoder refuses, and by STAT.READ for index 7 (R235 (a), (b)). Safe: the
  spec refuses these inputs. -/
  | undecodable (e : DecodeError)
  /-- Raised by `step` when the COMMAND_TABLE parameter is not well-formed (R170, R235 (c)). Safe: the spec refuses it. -/
  | illFormedTable
deriving DecidableEq, Repr

/-- `init()`: an empty ring, no cell written (R20, R260). -/
def Ring.reset : Ring := ⟨[], 0, 0⟩

/-- A staging buffer after reset (R26). -/
def Staging.reset : Staging := ⟨[], 0⟩

/-- A transmit latch after reset (R29). -/
def Latch.reset : Latch := ⟨false, []⟩

/-- The counters after reset (R27). -/
def Stats.reset : Stats := ⟨0, 0, 0, 0, 0, 0, 0⟩

/-- The draws of the reset state. DESIGN CHOICE: the spec has no such field; no statement rests on these values (log entry 8). -/
def Draw.reset : Draw := ⟨0, true, 0, [], 0⟩

/-- The parameters after reset: the 13 listed commands alone (R7, R171) and the OPEN chunk size. -/
def resetConfig : Config.Params := ⟨[], Config.txChunkLess1⟩

/-- The state after reset (R260). `crcAcc`: DESIGN CHOICE 0, the spec states no value (log entry 5). `agent`, `draw` and `pending` are
the model's own fields (log entries 1 and 8). -/
def State.reset : State where
  in0 := Ring.reset
  out0 := Ring.reset
  in1 := Ring.reset
  out1 := Ring.reset
  crcAcc := 0
  crcValid := false
  stage0 := Staging.reset
  stage1 := Staging.reset
  stats := Stats.reset
  lastKeys := 0
  tx0 := Latch.reset
  tx1 := Latch.reset
  decState := .idle
  faulted := none
  wire0 := []
  wire1 := []
  invocations := []
  events := []
  result := .none
  config := resetConfig
  agent := .main
  draw := Draw.reset
  pending := []

end Sys2Proof.Machine
end

