-- ==== Sys2Proof/Machine/Flags.lean ====
section
/-! DEFINITION. The block has no flags register (R34). Its status goes out as step results, as events (R230) and through the
seven counters (R27), which are written here. -/

namespace Sys2Proof.Machine

/-- The names of the seven counters (R27). -/
inductive StatName where
  | framesAttempted
  | badId
  | badSize
  | badChecksum
  | incomplete
  | dispatched
  | dispatchedCompleted
deriving DecidableEq, Repr

/-- The counter of an index, 0..6 (R27); 7 names none (R81). -/
def statOfIndex (i : BitVec 3) : Option StatName :=
  match i with
  | 0#3 => some .framesAttempted
  | 1#3 => some .badId
  | 2#3 => some .badSize
  | 3#3 => some .badChecksum
  | 4#3 => some .incomplete
  | 5#3 => some .dispatched
  | 6#3 => some .dispatchedCompleted
  | 7#3 => none

/-- The value of a counter (R244). -/
def Stats.get (x : Stats) (n : StatName) : Counter :=
  match n with
  | .framesAttempted => x.framesAttempted
  | .badId => x.badId
  | .badSize => x.badSize
  | .badChecksum => x.badChecksum
  | .incomplete => x.incomplete
  | .dispatched => x.dispatched
  | .dispatchedCompleted => x.dispatchedCompleted

/-- A counter one higher, modulo 2^32 (R27). -/
def Stats.bump (x : Stats) (n : StatName) : Stats :=
  match n with
  | .framesAttempted => { x with framesAttempted := x.framesAttempted + 1 }
  | .badId => { x with badId := x.badId + 1 }
  | .badSize => { x with badSize := x.badSize + 1 }
  | .badChecksum => { x with badChecksum := x.badChecksum + 1 }
  | .incomplete => { x with incomplete := x.incomplete + 1 }
  | .dispatched => { x with dispatched := x.dispatched + 1 }
  | .dispatchedCompleted => { x with dispatchedCompleted := x.dispatchedCompleted + 1 }

/-- The code of an event (R230). -/
def Event.code (e : Event) : Nat :=
  match e with
  | .unknownCommand _ _ => 0
  | .payloadSizeOutOfRange _ _ _ => 1
  | .checksumMismatch _ _ _ _ => 2
  | .incompleteFrame _ _ _ _ => 3
  | .ringOverrun _ _ => 4

/-- Count one occurrence (R27). -/
def State.count (s : State) (n : StatName) : State := { s with stats := s.stats.bump n }

/-- Record an event in the output; it changes no other state (R12, R230). -/
def State.record (s : State) (e : Event) : State := { s with events := s.events ++ [e] }

/-- End the step with a result (R12). -/
def State.finish (s : State) (r : Result) : State := { s with result := r }

end Sys2Proof.Machine
end

