-- ==== Sys2Proof/Machine/Ops.lean ====
section
/-! DEFINITION. The named operations over the block's storages, rings, staging buffers and latches; raising a model fault (R236);
entering a handler (R152) and returning from it (R174); the encoder's common body (R192); the reset event (R260). -/

namespace Sys2Proof.Machine

/-! ### Byte storages -/

/-- The byte of a cell, `none` where nothing has written it. -/
def Cells.read (m : Cells) (i : Nat) : Option Byte :=
  match m with
  | [] => none
  | (a, v) :: rest => if a = i then some v else Cells.read rest i

/-- Write one cell, keeping the cell numbers strictly rising. -/
def Cells.write (m : Cells) (i : Nat) (v : Byte) : Cells :=
  match m with
  | [] => [(i, v)]
  | (a, w) :: rest =>
    if i < a then (i, v) :: (a, w) :: rest
    else if i = a then (i, v) :: rest
    else (a, w) :: Cells.write rest i v

/-- Write bytes to the cells from `i` on, cell numbers taken modulo `size` (R101). -/
def Cells.writeFrom (size : Nat) (m : Cells) (i : Nat) (bytes : List Byte) : Cells :=
  match bytes with
  | [] => m
  | b :: rest => Cells.writeFrom size (m.write (i % size) b) (i + 1) rest

/-- The canonical form: cell numbers strictly rising, each below `size`. An unlisted cell has no value, so no entry is redundant. -/
def Cells.wf (size : Nat) (m : Cells) : Bool :=
  match m with
  | [] => true
  | [(a, _)] => decide (a < size)
  | (a, _) :: (b, w) :: rest => decide (a < b) && Cells.wf size ((b, w) :: rest)

/-- `MemRead` (R12, R50): the byte of a cell; a cell nothing has written gives a free value (log entry 4). -/
def Cells.value (sp : Space) (m : Cells) (i : Nat) : Byte :=
  (m.read i).getD (Config.unwrittenCell sp i)

/-! ### Rings (R20, R21, R100, R101, R104) -/

/-- `used = (tail - head) mod (C+1)` (R21). -/
def Ring.used (x : Ring) : Nat := (x.tail.val + Config.storeSize - x.head.val) % Config.storeSize

/-- `free = C - used` (R21). -/
def Ring.free (x : Ring) : Nat := Config.ringCapacity - x.used

/-- `empty(r)` (R21). -/
def Ring.isEmpty (x : Ring) : Bool := decide (x.used = 0)

/-- `full(r)` (R21). -/
def Ring.isFull (x : Ring) : Bool := decide (x.used = Config.ringCapacity)

/-- The cell of the `i`-th byte held, `(head + i) mod (C+1)` (R21). -/
def Ring.cell (x : Ring) (i : Nat) : Nat := (x.head.val + i) % Config.storeSize

/-- The `n` oldest bytes (R104). -/
def Ring.peek (sp : Space) (x : Ring) (n : Nat) : List Byte :=
  (List.range n).map (fun i => x.store.value sp (x.cell i))

/-- `contents(r)`: the bytes held, oldest first (R21). -/
def Ring.contents (sp : Space) (x : Ring) : List Byte := x.peek sp x.used

/-- `init()`: empty; the cells stay (R100). -/
def Ring.init (x : Ring) : Ring := { x with head := 0, tail := 0 }

/-- `head` moved on by `n` (R104). -/
def Ring.advance (x : Ring) (n : Nat) : Ring := { x with head := Fin.ofNat Config.storeSize (x.head.val + n) }

/-- How many bytes a put of `len` bytes drops: `max(0, used + L - C)` (R101). -/
def Ring.dropped (x : Ring) (len : Nat) : Nat := x.used + len - Config.ringCapacity

/-- `tail_after_write` of an append of `len` bytes (R101). -/
def Ring.tailAfter (x : Ring) (len : Nat) : Fin Config.storeSize := Fin.ofNat Config.storeSize (x.tail.val + len)

/-- The overwrite branch of a put (R101): the last `C` bytes of `bytes` replace the contents. -/
def Ring.overwrite (x : Ring) (bytes : List Byte) : Ring :=
  { store := x.store.writeFrom Config.storeSize 0 (lastBytes Config.ringCapacity bytes)
    head := 0
    tail := Fin.ofNat Config.storeSize Config.ringCapacity }

/-- The append branch of a put (R101), with `head` moved past the new tail where there was too little room. -/
def Ring.append (x : Ring) (bytes : List Byte) : Ring :=
  { store := x.store.writeFrom Config.storeSize x.tail.val bytes
    head := if x.free < bytes.length then Fin.ofNat Config.storeSize ((x.tailAfter bytes.length).val + 1) else x.head
    tail := x.tailAfter bytes.length }

/-- The ring after a put (R101). -/
def Ring.put (x : Ring) (bytes : List Byte) : Ring :=
  if Config.ringCapacity ≤ bytes.length then x.overwrite bytes else x.append bytes

/-! ### Staging buffers (R26) -/

/-- `stage(ch) = Stage(ch)[0:fill(ch))` (R26). -/
def Staging.bytes (sp : Space) (x : Staging) : List Byte :=
  (List.range x.fill).map (fun i => x.cells.value sp i)

/-- Bytes added after those staged (R140). -/
def Staging.append (x : Staging) (bytes : List Byte) : Staging :=
  { cells := x.cells.writeFrom Config.stageCap x.fill bytes
    fill := x.fill + bytes.length }

/-- Resync-by-one (R147): `Stage[i] <- Stage[i+1]` for `i` in `0..fill-2`, and `fill` one less. -/
def Staging.resync (sp : Space) (x : Staging) : Staging :=
  { cells := x.cells.writeFrom Config.stageCap 0 ((x.bytes sp).drop 1)
    fill := x.fill - 1 }

/-- Every staged byte discarded: `fill <- 0` (R174). -/
def Staging.clear (x : Staging) : Staging := { x with fill := 0 }

/-! ### One home for each register: accessors of the state -/

/-- `ring[r]` (R20). -/
def State.ring (s : State) (r : RingId) : Ring :=
  match r with
  | .inb .ch0 => s.in0
  | .outb .ch0 => s.out0
  | .inb .ch1 => s.in1
  | .outb .ch1 => s.out1

/-- Replace `ring[r]`. -/
def State.setRing (s : State) (r : RingId) (x : Ring) : State :=
  match r with
  | .inb .ch0 => { s with in0 := x }
  | .outb .ch0 => { s with out0 := x }
  | .inb .ch1 => { s with in1 := x }
  | .outb .ch1 => { s with out1 := x }

/-- The staging buffer of a channel (R26). -/
def State.staging (s : State) (ch : Channel) : Staging :=
  match ch with
  | .ch0 => s.stage0
  | .ch1 => s.stage1

/-- Replace the staging buffer of a channel. -/
def State.setStaging (s : State) (ch : Channel) (x : Staging) : State :=
  match ch with
  | .ch0 => { s with stage0 := x }
  | .ch1 => { s with stage1 := x }

/-- The transmit latch of a channel (R29). -/
def State.latch (s : State) (ch : Channel) : Latch :=
  match ch with
  | .ch0 => s.tx0
  | .ch1 => s.tx1

/-- Replace the transmit latch of a channel. -/
def State.setLatch (s : State) (ch : Channel) (x : Latch) : State :=
  match ch with
  | .ch0 => { s with tx0 := x }
  | .ch1 => { s with tx1 := x }

/-- `wire(ch)` (R15, R212). -/
def State.wire (s : State) (ch : Channel) : List Byte :=
  match ch with
  | .ch0 => s.wire0
  | .ch1 => s.wire1

/-- `wire(ch) <- wire(ch) ++ out` (R212). -/
def State.send (s : State) (ch : Channel) (out : List Byte) : State :=
  match ch with
  | .ch0 => { s with wire0 := s.wire0 ++ out }
  | .ch1 => { s with wire1 := s.wire1 ++ out }

/-- The bytes ring `r` holds, oldest first (R21). -/
def State.contents (s : State) (r : RingId) : List Byte := (s.ring r).contents (.ring r)

/-- The staged bytes of a channel (R26). -/
def State.staged (s : State) (ch : Channel) : List Byte := (s.staging ch).bytes (.stage ch)

/-- Replace `dec_state` (R30). -/
def State.setControl (s : State) (d : DecState) : State := { s with decState := d }

/-- Replace the CRC engine's register and its valid mark (R24). -/
def State.setCrc (s : State) (acc : Word) (valid : Bool) : State := { s with crcAcc := acc, crcValid := valid }

/-- Replace `last_keys` (R28). -/
def State.setKeys (s : State) (k : Byte) : State := { s with lastKeys := k }

/-- A handler runs (R30). -/
def State.running (s : State) : Bool :=
  match s.decState with
  | .idle => false
  | .inHandler _ => true

/-- The read-keypad handler runs: the entry of the running handler's command names it (R28, R173, R188). -/
def State.keypadRuns (s : State) : Bool :=
  match s.decState with
  | .idle => false
  | .inHandler h => decide (handlerOf (tableOf s.config) h.id = some .readKeypad)

/-! ### Ring ownership (R22) -/

/-- The one producer of a ring (R22). -/
def producer (r : RingId) : Agent :=
  match r with
  | .inb ch => .rx ch
  | .outb _ => .main

/-- The one consumer of a ring (R22). -/
def consumer (r : RingId) : Agent :=
  match r with
  | .inb _ => .main
  | .outb ch => .tx ch

/-! ### Raising a model fault (R236) -/

/-- `faulted <- some(reason)` unless it is already set; nothing else is written and the step has no result (R236). -/
def State.raise (s : State) (r : FaultReason) : State :=
  match s.faulted with
  | none => { s with faulted := some r, result := .none }
  | some _ => { s with result := .none }

/-- How a step ends: with the writes of its rule, or with a raised fault and none of them (R236). -/
def settle (s : State) (x : Except FaultReason State) : Host.Outcome State Fault Refusal :=
  match x with
  | .ok t => .next t
  | .error r => .next (s.raise r)

/-! ### The ring operations inside a step (R101, R102, R104) -/

/-- The bytes a get of `max` returns (R104). -/
def State.front (s : State) (r : RingId) (max : Nat) : List Byte :=
  (s.ring r).peek (.ring r) (min max (s.ring r).used)

/-- `head` after a get of `max` (R104). -/
def State.consume (s : State) (r : RingId) (max : Nat) : State :=
  s.setRing r ((s.ring r).advance (min max (s.ring r).used))

/-- A put with its overrun event (R101, R102). -/
def State.put (s : State) (r : RingId) (bytes : List Byte) : State :=
  let t := s.setRing r ((s.ring r).put bytes)
  if 0 < (s.ring r).dropped bytes.length then
    t.record (.ringOverrun r ((s.ring r).dropped bytes.length))
  else t

/-! ### Dispatch and return (R152, R173, R174) -/

/-- The decoder discards the first staged byte (R147). -/
def State.resync (s : State) (ch : Channel) : State :=
  s.setStaging ch ((s.staging ch).resync (.stage ch))

/-- Step 6: count, note the invocation, and hand the frame of `2 + n` bytes at the front of `bytes` to its handler (R152, R173). -/
def State.dispatch (s : State) (ch : Channel) (bytes : List Byte) (n : Nat) : State :=
  let frame := bytes.take (Config.headerSize + n)
  let t := s.count .dispatched
  { t with
    decState := .inHandler ⟨ch, byteAt bytes 0, frame, Config.headerSize + n, 0⟩
    invocations := t.invocations ++ [⟨ch, byteAt bytes 0, frame⟩] }

/-- `HND.RET` (R174): the only return (R241). Its status is discarded (D35). -/
def handlerReturn (s : State) : Except FaultReason State :=
  if s.agent ≠ .main then .error .decoderOwnership
  else
    match s.decState with
    | .idle => .error .handlerContract
    | .inHandler h =>
      if h.sends ≠ 1 then .error .handlerContract
      else
        .ok ((((s.setStaging h.ch (s.staging h.ch).clear).count .dispatchedCompleted).setControl .idle).finish
          .commandProcessed)

/-! ### The encoder's common body (R192) -/

/-- The caller's buffer with `payloadSize` in byte 1 and, for a device response, bit 0x40 in byte 0 (R192). -/
def encoderBuffer (bytes : List Byte) (set40 : Bool) : List Byte :=
  match bytes with
  | b0 :: _ :: p =>
    (if set40 then b0 ||| 0x40#8 else b0) :: BitVec.ofNat 8 (bytes.length - Config.headerSize) :: p
  | short => short

/-- Whether the handler contract allows a send on `ch`, and the control state after it (R172, R192). -/
def noteSend (d : DecState) (ch : Channel) : Except FaultReason DecState :=
  match d with
  | .idle => .ok .idle
  | .inHandler h =>
    if ch ≠ h.ch ∨ 1 ≤ h.sends then .error .handlerContract
    else .ok (.inHandler { h with sends := h.sends + 1 })

/-- `last_keys` after a send of `bytes`: while the read-keypad handler runs, the bitmask `K` of this poll, which its buffer
`[0x18, 0x00, K, pressed, released]` reports; otherwise as before (R28, R188). A buffer without a payload is no call R188 makes, and `K`
is then the draw at hand (log entry 17). -/
def State.polledKeys (s : State) (bytes : List Byte) : Byte :=
  if s.keypadRuns then bytes.getD Config.headerSize s.draw.keys else s.lastKeys

/-- `enc_send` (R192), the checks in the order of the rule; the one send of a read-keypad handler is also its update of `last_keys`
(R188). -/
def encSend (s : State) (ch : Channel) (bytes : List Byte) (set40 : Bool) : Except FaultReason State :=
  if s.agent ≠ .main then .error .encoderOwnership
  else if bytes.length < Config.headerSize ∨ Config.payloadMax < bytes.length - Config.headerSize then .error .encoderSize
  else
    match noteSend s.decState ch with
    | .error r => .error r
    | .ok d =>
      .ok ((((s.setKeys (s.polledKeys bytes)).setControl d).put (.outb ch) (withChecksum (encoderBuffer bytes set40))).finish .none)

/-! ### The reset event (R260, R263) -/

/-- Every register at its reset value. What has left the block stays (R260), the configuration does not change (R25), and the inputs
still to come are the schedule's (log entry 15). -/
def State.resetEvent (s : State) (rest : List Input) : State :=
  { State.reset with
    wire0 := s.wire0
    wire1 := s.wire1
    invocations := s.invocations
    events := s.events
    config := s.config
    pending := rest }

end Sys2Proof.Machine
end

