-- ==== Sys2Proof/Machine/Commands.lean ====
section
/-! DEFINITION. The commands (43_dispatch_encoder R172 to R189). A command runs as steps of MAIN between the DEC.PASS that dispatches
it and its return (R146): first its one response, then its return (R172). Log entries 9, 10, 18. -/

namespace Sys2Proof.Machine

/-- One step of the running handler of command `id`: its response while it has sent none, its return afterwards. Without a running
handler of that command it is HandlerContract (log entry 18). -/
def handlerStep (id : Byte) (respond : Channel → State → Except FaultReason State) (s : State) : Except FaultReason State :=
  if s.agent ≠ .main then .error .decoderOwnership
  else
    match s.decState with
    | .idle => .error .handlerContract
    | .inHandler h =>
      if h.id ≠ id then .error .handlerContract
      else if h.sends = 0 then respond h.ch s
      else handlerReturn s

/-- The response of a handler outside the block: exactly one ENC.DEV or ENC.NORM on the frame's channel (R172); which of the two, the
id byte and the payload are draws (R5, R9, I7). -/
def externalResponse (ch : Channel) (s : State) : Except FaultReason State :=
  encSend s ch (s.draw.replyId :: 0x00#8 :: s.draw.replyPayload) s.draw.replyDevice

/-- The ping handler's response payload (R176). -/
def pingReply (payload : List Byte) : List Byte :=
  if payload.length = 0 then [] else Config.pingEcho payload

/-- The ping handler's response (R176). -/
def pingResponse (payload : List Byte) (ch : Channel) (s : State) : Except FaultReason State :=
  encSend s ch (0x00#8 :: 0x00#8 :: pingReply payload) true

/-- Keys down now and not at the last poll (R188). -/
def pressedKeys (last now : Byte) : Byte := (~~~ last) &&& now

/-- Keys down at the last poll and not now (R188). -/
def releasedKeys (last now : Byte) : Byte := last &&& (~~~ now)

/-- The read-keypad handler's response (R188): the bitmask is a draw; the send sets `last_keys` to it. -/
def keypadResponse (ch : Channel) (s : State) : Except FaultReason State :=
  encSend s ch [0x18#8, 0x00#8, s.draw.keys, pressedKeys s.lastKeys s.draw.keys, releasedKeys s.lastKeys s.draw.keys] true

/-- The response of the handler a table entry names (R25, R152, R173). -/
def tableResponse (table : List Descriptor) (h : HandlerRun) : Channel → State → Except FaultReason State :=
  match handlerOf table h.id with
  | some .ping => pingResponse (h.frame.drop Config.headerSize)
  | some .readKeypad => keypadResponse
  | some .external => externalResponse
  | none => externalResponse

/-- A step of the running handler of an entry that COMMAND_TABLE adds to the listed ones (R7, R76, R171), or a handler step while
none runs (log entry 18). -/
def execTableHandler (s : State) : Host.Outcome State Fault Refusal :=
  match s.decState with
  | .idle => settle s (handlerStep 0x00#8 externalResponse s)
  | .inHandler h => settle s (handlerStep h.id (tableResponse (tableOf s.config) h) s)

/-- Command 0x00, ping (R175, R176). -/
def execCmdPing (payload : List Byte) (s : State) : Host.Outcome State Fault Refusal :=
  settle s (handlerStep 0x00#8 (pingResponse payload) s)

/-- Command 0x02, write-flash (R177). -/
def execCmdWriteFlash (_payload : List Byte) (s : State) : Host.Outcome State Fault Refusal :=
  settle s (handlerStep 0x02#8 externalResponse s)

/-- Command 0x03, read-flash (R178). -/
def execCmdReadFlash (_payload : List Byte) (s : State) : Host.Outcome State Fault Refusal :=
  settle s (handlerStep 0x03#8 externalResponse s)

/-- Command 0x05, reset (R179); a device reset after it is the reset event (R263). -/
def execCmdReset (_payload : List Byte) (s : State) : Host.Outcome State Fault Refusal :=
  settle s (handlerStep 0x05#8 externalResponse s)

/-- Command 0x06, clear-screen (R180). -/
def execCmdClearScreen (_payload : List Byte) (s : State) : Host.Outcome State Fault Refusal :=
  settle s (handlerStep 0x06#8 externalResponse s)

/-- Command 0x0B, set-cursor-position (R181). -/
def execCmdSetCursorPosition (_payload : List Byte) (s : State) : Host.Outcome State Fault Refusal :=
  settle s (handlerStep 0x0B#8 externalResponse s)

/-- Command 0x0C, set-cursor-style (R182). -/
def execCmdSetCursorStyle (_payload : List Byte) (s : State) : Host.Outcome State Fault Refusal :=
  settle s (handlerStep 0x0C#8 externalResponse s)

/-- Command 0x0D, set-contrast (R183). -/
def execCmdSetContrast (_payload : List Byte) (s : State) : Host.Outcome State Fault Refusal :=
  settle s (handlerStep 0x0D#8 externalResponse s)

/-- Command 0x0E, set-backlight (R184). -/
def execCmdSetBacklight (_payload : List Byte) (s : State) : Host.Outcome State Fault Refusal :=
  settle s (handlerStep 0x0E#8 externalResponse s)

/-- Command 0x17, configure-key-report (R185). -/
def execCmdConfigureKeyReport (_payload : List Byte) (s : State) : Host.Outcome State Fault Refusal :=
  settle s (handlerStep 0x17#8 externalResponse s)

/-- Command 0x18, read-keypad (R186, R188). -/
def execCmdReadKeypad (_payload : List Byte) (s : State) : Host.Outcome State Fault Refusal :=
  settle s (handlerStep 0x18#8 keypadResponse s)

/-- Command 0x1F, send-data-to-display (R187). -/
def execCmdSendDataToDisplay (_payload : List Byte) (s : State) : Host.Outcome State Fault Refusal :=
  settle s (handlerStep 0x1F#8 externalResponse s)

/-- Command 0x22, configure-gpio (R189). -/
def execCmdConfigureGpio (_payload : List Byte) (s : State) : Host.Outcome State Fault Refusal :=
  settle s (handlerStep 0x22#8 externalResponse s)

end Sys2Proof.Machine
end

