-- ==== Sys2Proof/Machine/CrcEngine.lean ====
section
/-! DEFINITION. CRC.INIT, CRC.STEP, CRC.READ (41_crc): the engine's own register, which no frame uses (R24, R127). -/

namespace Sys2Proof.Machine

/-- CRC.INIT (R124). -/
def execCrcInit (s : State) : Host.Outcome State Fault Refusal :=
  settle s <|
    if s.agent ≠ .main then .error .crcOwnership
    else .ok ((s.setCrc 0xFFFF#16 true).finish .none)

/-- CRC.STEP (R125). -/
def execCrcStep (b : Byte) (s : State) : Host.Outcome State Fault Refusal :=
  settle s <|
    if s.agent ≠ .main then .error .crcOwnership
    else if !s.crcValid then .error .crcUninitialised
    else .ok ((s.setCrc (crcStep s.crcAcc b) s.crcValid).finish .none)

/-- CRC.READ (R126). -/
def execCrcRead (s : State) : Host.Outcome State Fault Refusal :=
  settle s <|
    if s.agent ≠ .main then .error .crcOwnership
    else if !s.crcValid then .error .crcUninitialised
    else .ok (s.finish (.checksum (~~~ s.crcAcc)))

end Sys2Proof.Machine
end

