-- ==== Sys2Proof/Machine/Decoder.lean ====
section
/-! DEFINITION. DEC.FILL, DEC.PASS (42_decoder) and HND.RET (43_dispatch_encoder R174). -/

namespace Sys2Proof.Machine

/-- How an alignment attempt ends (R73, R144, R232): the first check that fails, or a valid frame. -/
inductive Verdict where
  | unknownId (id : Byte)
  | badSize (id n : Byte)
  | incomplete (id : Byte) (req : Nat)
  | badChecksum (id : Byte) (computed received : Word)
  | valid (n : Nat)
deriving DecidableEq, Repr

/-- Steps 2 to 5 on the staged bytes (R148, R149, R150, R151), in that order (R232). -/
def judge (table : List Descriptor) (bytes : List Byte) : Verdict :=
  let id := byteAt bytes 0
  match lookup table id with
  | none => .unknownId id
  | some d =>
    let n := (byteAt bytes 1).toNat
    if !accepts d n then .badSize id (byteAt bytes 1)
    else if bytes.length < Config.minFrame + n then .incomplete id (Config.minFrame + n)
    else
      let computed := crc16 (bytes.take (Config.headerSize + n))
      let received := le16 (byteAt bytes (2 + n)) (byteAt bytes (3 + n))
      if computed ≠ received then .badChecksum id computed received else .valid n

/-- How one trip of the decode loop ends: it goes round again, or the pass returns. -/
inductive Trip where
  | again (s : State)
  | done (s : State)
deriving DecidableEq, Repr

/-- A rejected attempt: counted, recorded, and one byte discarded (R147, R148, R149, R151). -/
def State.reject (s : State) (ch : Channel) (n : StatName) (e : Event) : State :=
  ((s.count n).record e).resync ch

/-- One trip of the decode loop (R144): step 1 (R145), then steps 2 to 5, and step 6 (R152) on a valid frame. -/
def attempt (ch : Channel) (s : State) : Trip :=
  if (s.staging ch).fill < Config.minFrame then .done (s.finish .noCommand)
  else
    let t := s.count .framesAttempted
    match judge (tableOf s.config) (s.staged ch) with
    | .unknownId id => .again (t.reject ch .badId (.unknownCommand ch id))
    | .badSize id n => .again (t.reject ch .badSize (.payloadSizeOutOfRange ch id n))
    | .incomplete id req =>
      .done (((t.count .incomplete).record (.incompleteFrame ch id (s.staging ch).fill req)).finish .noCommand)
    | .badChecksum id computed received => .again (t.reject ch .badChecksum (.checksumMismatch ch id computed received))
    | .valid n => .done ((t.dispatch ch (s.staged ch) n).finish .dispatched)

/-- The decode loop (R144), on at most `fuel` trips; a pass on `F` bytes makes at most `F - 3` attempts (R154). -/
def passLoop (ch : Channel) (fuel : Nat) (s : State) : State :=
  match fuel with
  | 0 => s.finish .noCommand
  | k + 1 =>
    match attempt ch s with
    | .done t => t
    | .again t => passLoop ch k t

/-- DEC.FILL (R140, R141). -/
def execDecFill (ch : Channel) (s : State) : Host.Outcome State Fault Refusal :=
  settle s <|
    if s.agent ≠ .main then .error .decoderOwnership
    else if s.running then .error .decoderReentry
    else
      let space := Config.stageCap - (s.staging ch).fill
      let out := s.front (.inb ch) space
      .ok (((s.consume (.inb ch) space).setStaging ch ((s.staging ch).append out)).finish (.count out.length))

/-- DEC.PASS (R144, R141). -/
def execDecPass (ch : Channel) (s : State) : Host.Outcome State Fault Refusal :=
  settle s <|
    if s.agent ≠ .main then .error .decoderOwnership
    else if s.running then .error .decoderReentry
    else .ok (passLoop ch (s.staging ch).fill s)

/-- HND.RET (R174): `status` is discarded (D35). -/
def execHndRet (_status : Byte) (s : State) : Host.Outcome State Fault Refusal :=
  settle s (handlerReturn s)

end Sys2Proof.Machine
end

