-- ==== Sys2Proof/Machine/Encoder.lean ====
section
/-! DEFINITION. ENC.NORM and ENC.DEV (43_dispatch_encoder R190, R191). -/

namespace Sys2Proof.Machine

/-- ENC.NORM (R190): a normal response or an async report (R193). -/
def execEncNorm (ch : Channel) (bytes : List Byte) (s : State) : Host.Outcome State Fault Refusal :=
  settle s (encSend s ch bytes false)

/-- ENC.DEV (R191): a device response, bit 0x40 set. -/
def execEncDev (ch : Channel) (bytes : List Byte) (s : State) : Host.Outcome State Fault Refusal :=
  settle s (encSend s ch bytes true)

end Sys2Proof.Machine
end

