-- ==== Sys2Proof/Machine/RingOps.lean ====
section
/-! DEFINITION. RING.INIT, RING.PUT, RING.GET, RING.USED (40_ring). -/

namespace Sys2Proof.Machine

/-- RING.INIT (R100); during a handler it is HandlerIllegalOp (R173, R235). -/
def execRingInit (r : RingId) (s : State) : Host.Outcome State Fault Refusal :=
  settle s <|
    if s.agent ≠ .main then .error .ringOwnership
    else if s.running then .error .handlerIllegalOp
    else .ok ((s.setRing r (s.ring r).init).finish .none)

/-- RING.PUT (R101, R102). -/
def execRingPut (r : RingId) (bytes : List Byte) (s : State) : Host.Outcome State Fault Refusal :=
  settle s <|
    if s.agent ≠ producer r then .error .ringOwnership
    else .ok ((s.put r bytes).finish .none)

/-- `r` is an inbound ring (R173). -/
def isInbound (r : RingId) : Bool :=
  match r with
  | .inb _ => true
  | .outb _ => false

/-- RING.GET (R104); of an inbound ring during a handler it is HandlerIllegalOp (R173, R235). -/
def execRingGet (r : RingId) (max : Nat) (s : State) : Host.Outcome State Fault Refusal :=
  settle s <|
    if s.agent ≠ consumer r then .error .ringOwnership
    else if isInbound r && s.running then .error .handlerIllegalOp
    else .ok ((s.consume r max).finish (.got (s.front r max).length (s.front r max)))

/-- RING.USED (R105): a pure read any agent may make. -/
def execRingUsed (r : RingId) (s : State) : Host.Outcome State Fault Refusal :=
  settle s (.ok (s.finish (.count (s.ring r).used)))

end Sys2Proof.Machine
end

