-- ==== Sys2Proof/Machine/Statistics.lean ====
section
/-! DEFINITION. STAT.READ (60_exceptions R244). -/

namespace Sys2Proof.Machine

/-- STAT.READ (R244): a pure read any agent may make; index 7 is refused (R81, R235 (b)). -/
def execStatRead (i : BitVec 3) (s : State) : Host.Outcome State Fault Refusal :=
  match statOfIndex i with
  | some n => .next (s.finish (.counter (s.stats.get n)))
  | none => .refused (.undecodable (.illFormedOperand 0x50#8 (i.setWidth 8)))

end Sys2Proof.Machine
end

