-- ==== Sys2Proof/Machine/Transport.lean ====
section
/-! DEFINITION. TX.START and TX.DONE (44_transport). -/

namespace Sys2Proof.Machine

/-- TX.START (R212): one chunk of at most TX_CHUNK bytes from OUT(ch) to the wire, guarded by the latch. -/
def execTxStart (ch : Channel) (s : State) : Host.Outcome State Fault Refusal :=
  settle s <|
    if s.agent ≠ .tx ch then .error .ringOwnership
    else if (s.latch ch).busy then .error .txLatch
    else
      let out := s.front (.outb ch) s.config.txChunk
      let t := s.consume (.outb ch) s.config.txChunk
      .ok ((if 0 < out.length then (t.setLatch ch ⟨true, out⟩).send ch out else t).finish (.count out.length))

/-- TX.DONE (R213). -/
def execTxDone (ch : Channel) (s : State) : Host.Outcome State Fault Refusal :=
  settle s <|
    if s.agent ≠ .tx ch then .error .ringOwnership
    else if !(s.latch ch).busy then .error .txLatch
    else .ok ((s.setLatch ch ⟨false, []⟩).finish .none)

end Sys2Proof.Machine
end

