-- ==== Sys2Proof/Machine/Dispatch.lean ====
section
/-! DEFINITION. One arm for each instruction of spec/opcode_table.json. -/

namespace Sys2Proof.Machine

def exec (i : Instr) (s : State) : Host.Outcome State Fault Refusal :=
  match i with
  | .ringInit r => Sys2Proof.Machine.execRingInit r s
  | .ringPut r bytes => Sys2Proof.Machine.execRingPut r bytes s
  | .ringGet r max => Sys2Proof.Machine.execRingGet r max s
  | .ringUsed r => Sys2Proof.Machine.execRingUsed r s
  | .crcInit => Sys2Proof.Machine.execCrcInit s
  | .crcStep b => Sys2Proof.Machine.execCrcStep b s
  | .crcRead => Sys2Proof.Machine.execCrcRead s
  | .decFill ch => Sys2Proof.Machine.execDecFill ch s
  | .decPass ch => Sys2Proof.Machine.execDecPass ch s
  | .hndRet status => Sys2Proof.Machine.execHndRet status s
  | .encNorm ch bytes => Sys2Proof.Machine.execEncNorm ch bytes s
  | .encDev ch bytes => Sys2Proof.Machine.execEncDev ch bytes s
  | .txStart ch => Sys2Proof.Machine.execTxStart ch s
  | .txDone ch => Sys2Proof.Machine.execTxDone ch s
  | .statRead idx => Sys2Proof.Machine.execStatRead idx s
  | .cmdPing payload => Sys2Proof.Machine.execCmdPing payload s
  | .cmdWriteFlash payload => Sys2Proof.Machine.execCmdWriteFlash payload s
  | .cmdReadFlash payload => Sys2Proof.Machine.execCmdReadFlash payload s
  | .cmdReset payload => Sys2Proof.Machine.execCmdReset payload s
  | .cmdClearScreen payload => Sys2Proof.Machine.execCmdClearScreen payload s
  | .cmdSetCursorPosition payload => Sys2Proof.Machine.execCmdSetCursorPosition payload s
  | .cmdSetCursorStyle payload => Sys2Proof.Machine.execCmdSetCursorStyle payload s
  | .cmdSetContrast payload => Sys2Proof.Machine.execCmdSetContrast payload s
  | .cmdSetBacklight payload => Sys2Proof.Machine.execCmdSetBacklight payload s
  | .cmdConfigureKeyReport payload => Sys2Proof.Machine.execCmdConfigureKeyReport payload s
  | .cmdReadKeypad payload => Sys2Proof.Machine.execCmdReadKeypad payload s
  | .cmdSendDataToDisplay payload => Sys2Proof.Machine.execCmdSendDataToDisplay payload s
  | .cmdConfigureGpio payload => Sys2Proof.Machine.execCmdConfigureGpio payload s

end Sys2Proof.Machine
end

