-- ==== Sys2Proof/Machine/Fetch.lean ====
section
/-! DEFINITION. Which input the next step takes and which instruction it decodes to (R8, R9, R235, R237), the pseudo-operations
(R83), and where the host places an instruction. Log entries 1, 2, 3, 9, 11, 12. -/

namespace Sys2Proof.Machine

/-- What the next step does. -/
inductive Fetched where
  /-- No input: no agent takes a step (R250). -/
  | idle
  /-- The reset event, and the inputs after it. -/
  | reset (rest : List Input)
  /-- The fault mark is set, so no agent steps (R237). -/
  | halted (r : FaultReason)
  /-- An input without meaning (R235). -/
  | refuse (r : Refusal)
  /-- An instruction, and the state its agent runs it in. -/
  | run (i : Instr) (s : State)
  /-- A step of a handler that no listed command has, and the state it runs in. -/
  | external (s : State)
deriving DecidableEq, Repr

/-- The input taken out of the schedule, with its agent. -/
def State.issue (s : State) (ag : Agent) (rest : List Input) : State :=
  { s with agent := ag, pending := rest }

/-- A handler step taken out of the schedule: MAIN's (R173), with its draws. -/
def State.issueHandler (s : State) (d : Draw) (rest : List Input) : State :=
  { s with agent := .main, draw := d, pending := rest }

/-- An agent's request (R80, R81, R235). -/
def fetchRequest (s : State) (ag : Agent) (r : Request) (rest : List Input) : Fetched :=
  match decodeRequest r with
  | .ok i => .run i (s.issue ag rest)
  | .error e => .refuse (.undecodable e)

/-- A step of the running handler: its command is read from the frame `dec_state` holds (R173, R176). -/
def fetchHandler (s : State) (d : Draw) (rest : List Input) : Fetched :=
  match s.decState with
  | .idle => .external (s.issueHandler d rest)
  | .inHandler h =>
    match decodeCommand h.frame with
    | .ok (i, _) => .run i (s.issueHandler d rest)
    | .error (.unknownCommand _) => .external (s.issueHandler d rest)
    | .error e => .refuse (.undecodable e)

/-- The next input (R9), after the checks of the table (R170, R235 (c)) and of the fault mark (R237). -/
def fetch (s : State) : Fetched :=
  if !tableWf (tableOf s.config) then .refuse .illFormedTable
  else
    match s.pending with
    | [] => .idle
    | .reset :: rest => .reset rest
    | .port ag r :: rest =>
      match s.faulted with
      | some x => .halted x
      | none => fetchRequest s ag r rest
    | .handler d :: rest =>
      match s.faulted with
      | some x => .halted x
      | none => fetchHandler s d rest

/-! ### Pseudo-operations (R83, R210, R211) -/

/-- The request of a port operation; a command has none. -/
def requestOf (i : Instr) : Option Request :=
  match encode i with
  | .request r => some r
  | .command _ => none

/-- A port operation of an agent as an input. -/
def portInput (ag : Agent) (i : Instr) : List Input :=
  match requestOf i with
  | some r => [.port ag r]
  | none => []

/-- `RX.PUSH ch, bytes` (R83, R210). -/
def rxPush (ch : Channel) (bytes : List Byte) : List Input := portInput (.rx ch) (.ringPut (.inb ch) bytes)

/-- `POLL ch`: two steps (R83). -/
def poll (ch : Channel) : List Input := portInput .main (.decFill ch) ++ portInput .main (.decPass ch)

/-- `READ ch, max` (R83, R211). -/
def readOp (ch : Channel) (max : Nat) : List Input := portInput .main (.ringGet (.inb ch) max)

/-- `WRITE ch, bytes` (R83, R211). -/
def writeOp (ch : Channel) (bytes : List Byte) : List Input := portInput .main (.ringPut (.outb ch) bytes)

/-! ### Where an instruction is placed for the next step -/

/-- An agent that may issue the instruction (R9, R22, R80). -/
def issuer (i : Instr) : Agent :=
  match i with
  | .ringPut r _ => producer r
  | .ringGet r _ => consumer r
  | .txStart ch => .tx ch
  | .txDone ch => .tx ch
  | _ => .main

/-- A request in front of the schedule, or a handler step in front of it with the command's frame as the one being handled on
channel 0 (log entry 12). The fault mark is off, so that the step is taken. -/
def place (s : State) (i : Instr) (e : Encoded) : State :=
  match e with
  | .request r => { s with faulted := none, pending := .port (issuer i) r :: s.pending }
  | .command f =>
    { s with
      faulted := none
      decState := .inHandler ⟨.ch0, byteAt f 0, f, f.length, 0⟩
      pending := .handler s.draw :: s.pending }

end Sys2Proof.Machine
end

