-- ==== Sys2Proof/Machine/Step.lean ====
section
/-! DEFINITION. One step: the next input of the schedule, decoded and executed. -/

namespace Sys2Proof.Machine

/-- One step (R8, R9, R12): a next state, a fault where the fault mark is set (R237), or a refusal (R235). -/
def step (s : State) : Host.Outcome State Fault Refusal :=
  match fetch s with
  | .idle => .next s
  | .reset rest => .next (s.resetEvent rest)
  | .halted r => .fault (.halted r)
  | .refuse r => .refused r
  | .run i t => exec i t
  | .external t => execTableHandler t

/-- The state with the instruction of a table word placed where the next step takes it. -/
def State.withFetchWord (s : State) (nbits w : Nat) : State :=
  match decodeTableWord nbits w with
  | some i => place s i (encode i)
  | none => s

end Sys2Proof.Machine
end

