-- ==== Sys2Proof/Safety.lean ====
section
/-! DEFINITION. What claims are stated in: the observation of a run (R15) and when a state may end one (R237), the invariants of the
block, the fairness of the platform (R216), the ring operations with their agents (R52), and the history of a ring (R59, R106,
R107). -/

namespace Sys2Proof.Machine

/-! ### Observation (R15, R237) -/

/-- What a claim observes (R15). -/
structure Observation where
  wire0 : List Byte
  wire1 : List Byte
  invocations : List Invocation
  stats : Stats
  faulted : Option FaultReason
deriving DecidableEq, Repr

/-- The observation in a state (R15). -/
def observe (s : State) : Observation := ⟨s.wire0, s.wire1, s.invocations, s.stats, s.faulted⟩

/-- A run may end here: no fault was raised (R237, D30), and no input is left. The second half is the model's choice (log entry 24): the
spec says only that a faulted state is not final. -/
def isFinal (s : State) : Bool := s.pending.isEmpty && s.faulted.isNone

/-- A run from `s` that ends with the observation `o`; a faulted run shows none (R237). -/
def Shows (s : State) (o : Observation) : Prop :=
  ∃ k t, Sys2Proof.core.run k s = .next t ∧ isFinal t = true ∧ observe t = o

/-! ### Invariants -/

/-- A ring's store is canonical and every cell of its used span is written (R23, R50). -/
def Ring.wf (x : Ring) : Bool :=
  Cells.wf Config.storeSize x.store && (List.range x.used).all (fun i => (x.store.read (x.cell i)).isSome)

/-- A staging buffer holds at most STAGE_CAP bytes, all of them written, in canonical cells (R26). -/
def Staging.wf (x : Staging) : Bool :=
  decide (x.fill ≤ Config.stageCap) && Cells.wf Config.stageCap x.cells &&
    (List.range x.fill).all (fun i => (x.cells.read i).isSome)

/-- The latch invariant (R214), and the bound on a chunk (R29). -/
def Latch.wf (chunkMax : Nat) (x : Latch) : Bool :=
  (x.busy == !x.chunk.isEmpty) && decide (x.chunk.length ≤ chunkMax)

/-- A running handler has a frame of `size = 2 + n` bytes whose first is its id and whose second is `n <= 252`, and has sent at most
once (R30, R172). -/
def DecState.wf (d : DecState) : Bool :=
  match d with
  | .idle => true
  | .inHandler h =>
    decide (h.frame.length = h.size) && decide (h.size = Config.headerSize + (byteAt h.frame 1).toNat) &&
      decide (h.size ≤ Config.headerSize + Config.payloadMax) && (byteAt h.frame 0 == h.id) && decide (h.sends ≤ 1)

/-- The storages, latches and the decoder's control state are well-formed. -/
def State.wf (s : State) : Bool :=
  s.in0.wf && s.out0.wf && s.in1.wf && s.out1.wf && s.stage0.wf && s.stage1.wf &&
    s.tx0.wf s.config.txChunk && s.tx1.wf s.config.txChunk && s.decState.wf

/-- The counter law of R145 and R249. -/
abbrev Stats.balanced (x : Stats) : Prop :=
  x.framesAttempted = x.badId + x.badSize + x.badChecksum + x.incomplete + x.dispatched

/-- `dispatched - dispatched_completed` is 1 while a handler runs and 0 otherwise, modulo 2^32 (R249). -/
abbrev State.completionsOwed (s : State) : Prop :=
  s.stats.dispatched - s.stats.dispatchedCompleted = if s.running then 1 else 0

/-- While a handler runs, its frame is the front of the staged bytes of its channel (R51, R152, R174). -/
def State.frameStaged (s : State) : Bool :=
  match s.decState with
  | .idle => true
  | .inHandler h => h.frame == (s.staged h.ch).take h.size

/-! ### Frames: what a step leaves unchanged -/

/-- Every ring as before: head, tail and all cells. -/
def SameRings (s t : State) : Prop := ∀ q, t.ring q = s.ring q

/-- Every ring but `r` as before. -/
def SameRingsBut (r : RingId) (s t : State) : Prop := ∀ q, q ≠ r → t.ring q = s.ring q

/-- The CRC engine's register as before. -/
def SameCrc (s t : State) : Prop := t.crcAcc = s.crcAcc ∧ t.crcValid = s.crcValid

/-- Both staging buffers as before: fill and all cells. -/
def SameStaging (s t : State) : Prop := ∀ c, t.staging c = s.staging c

/-- The other channel's staging buffer as before. -/
def SameStagingBut (ch : Channel) (s t : State) : Prop := ∀ c, c ≠ ch → t.staging c = s.staging c

/-- The counters as before. -/
def SameStats (s t : State) : Prop := t.stats = s.stats

/-- `last_keys` as before. -/
def SameKeys (s t : State) : Prop := t.lastKeys = s.lastKeys

/-- `dec_state` and the invocations as before. -/
def SameDispatch (s t : State) : Prop := t.decState = s.decState ∧ t.invocations = s.invocations

/-- Both transmit latches and both wires as before. -/
def SameTransport (s t : State) : Prop := (∀ c, t.latch c = s.latch c) ∧ ∀ c, t.wire c = s.wire c

/-- The other channel's transmit latch and wire as before. -/
def SameTransportBut (ch : Channel) (s t : State) : Prop :=
  (∀ c, c ≠ ch → t.latch c = s.latch c) ∧ ∀ c, c ≠ ch → t.wire c = s.wire c

/-- The fault mark, the configuration, and the model's own fields as before. -/
def SameControl (s t : State) : Prop :=
  t.faulted = s.faulted ∧ t.config = s.config ∧ t.agent = s.agent ∧ t.draw = s.draw ∧ t.pending = s.pending

/-- The state `t` a put of `bytes` into ring `r` leaves (R101, R102): the newest bytes survive, oldest first, at the indices of the rule;
only the cells the put stores to change; one overrun event is recorded exactly when bytes are dropped; the other rings stay. -/
def PutsInto (r : RingId) (bytes : List Byte) (s t : State) : Prop :=
  t.contents r = lastBytes (min 128 ((s.ring r).used + bytes.length)) (s.contents r ++ bytes) ∧
  (128 ≤ bytes.length →
    (t.ring r).head.val = 0 ∧ (t.ring r).tail.val = 128 ∧
    ∀ c, 128 ≤ c → (t.ring r).store.read c = (s.ring r).store.read c) ∧
  (bytes.length < 128 →
    (t.ring r).tail.val = ((s.ring r).tail.val + bytes.length) % 129 ∧
    (t.ring r).head.val = (if (s.ring r).free < bytes.length
      then ((s.ring r).tail.val + bytes.length + 1) % 129 else (s.ring r).head.val) ∧
    ∀ c, (∀ k, k < bytes.length → c ≠ ((s.ring r).tail.val + k) % 129) →
      (t.ring r).store.read c = (s.ring r).store.read c) ∧
  t.events = s.events ++
    (if 128 < (s.ring r).used + bytes.length then [.ringOverrun r ((s.ring r).used + bytes.length - 128)] else []) ∧
  SameRingsBut r s t

/-- The state in which a fault has been raised: the mark is set unless it was, there is no result, nothing else is written (R236). -/
def marked (s : State) (r : FaultReason) : State := { s with faulted := some (s.faulted.getD r), result := .none }

/-! ### Running several instructions of one agent -/

/-- The instructions of a list, one after another, by the same agent. -/
def execAll (is : List Instr) (s : State) : Host.Outcome State Fault Refusal :=
  match is with
  | [] => .next s
  | i :: rest =>
    match exec i s with
    | .next t => execAll rest t
    | .fault r => .fault r
    | .refused r => .refused r

/-- One byte of a delivery (R157): `RX(ch)` pushes it, then MAIN fills and makes a pass. -/
def deliverByte (ch : Channel) (b : Byte) (s : State) : Host.Outcome State Fault Refusal :=
  match exec (.ringPut (.inb ch) [b]) { s with agent := .rx ch } with
  | .next t => execAll [.decFill ch, .decPass ch] { t with agent := .main }
  | .fault r => .fault r
  | .refused r => .refused r

/-- The bytes of a list delivered one at a time. -/
def deliver (ch : Channel) (bytes : List Byte) (s : State) : Host.Outcome State Fault Refusal :=
  match bytes with
  | [] => .next s
  | b :: rest =>
    match deliverByte ch b s with
    | .next t => deliver ch rest t
    | .fault r => .fault r
    | .refused r => .refused r

/-- An attempt at the front of these bytes is rejected: it neither waits nor finds a valid frame (R144). -/
def rejected (table : List Descriptor) (bytes : List Byte) : Bool :=
  match judge table bytes with
  | .unknownId _ => true
  | .badSize _ _ => true
  | .badChecksum _ _ _ => true
  | .incomplete _ _ => false
  | .valid _ => false

/-! ### Fairness of the platform (R216) -/

/-- The next step is `TX.START ch`. -/
def startsTx (s : State) (ch : Channel) : Bool :=
  match fetch s with
  | .run (.txStart c) t => decide (c = ch) && decide (t.agent = .tx ch)
  | _ => false

/-- The two fairness assumptions of R216 on an infinite run: a set latch is cleared eventually, and while an outbound ring is non-empty
and its latch clear, a TX.START is taken eventually. What discharges a debt besides TX.DONE and TX.START is the model's choice (log
entry 23), since the spec is silent on it: a reset that clears the latch counts as the completion, and a reset or RING.INIT that
empties the ring ends the duty to start. -/
def Fair (run : Nat → State) : Prop :=
  ∀ (ch : Channel) (k : Nat),
    (((run k).latch ch).busy = true → ∃ m, k ≤ m ∧ ((run m).latch ch).busy = false) ∧
    (0 < ((run k).ring (.outb ch)).used → ((run k).latch ch).busy = false → 
      ∃ m, k ≤ m ∧ (startsTx (run m) ch = true ∨ ((run m).ring (.outb ch)).used = 0))

/-! ### The four ring operations on one ring (R52, R53) -/

/-- A ring operation (R52), without its ring. -/
inductive RingOp where
  | init
  | put (bytes : List Byte)
  | get (max : Nat)
  | used
deriving DecidableEq, Repr

/-- The operation on ring `r`. -/
def RingOp.instr (op : RingOp) (r : RingId) : Instr :=
  match op with
  | .init => .ringInit r
  | .put bytes => .ringPut r bytes
  | .get max => .ringGet r max
  | .used => .ringUsed r

/-- An agent with the right to the operation on ring `r` (R22); RING.USED may be any agent's, here MAIN's. -/
def RingOp.agent (op : RingOp) (r : RingId) : Agent :=
  match op with
  | .init => .main
  | .put _ => producer r
  | .get _ => consumer r
  | .used => .main

/-- The operation on ring `r`, issued by that agent. -/
def RingOp.exec (op : RingOp) (r : RingId) (s : State) : Host.Outcome State Fault Refusal :=
  Machine.exec (op.instr r) { s with agent := op.agent r }

/-! ### The history of a ring (R59, R106, R107) -/

/-- A ring operation of a history. -/
inductive RingStep where
  | put (bytes : List Byte)
  | get (max : Nat)
deriving DecidableEq, Repr

/-- A ring with the bytes given to its puts and returned by its gets since `RING.INIT`, and whether no put has overrun. -/
structure RingHistory where
  ring : Ring
  given : List Byte
  returned : List Byte
  noOverrun : Bool
deriving DecidableEq, Repr

/-- The history at `RING.INIT` (R100). -/
def RingHistory.start (x : Ring) : RingHistory := ⟨x.init, [], [], true⟩

/-- One more operation (R101, R104). -/
def RingHistory.step (sp : Space) (h : RingHistory) (op : RingStep) : RingHistory :=
  match op with
  | .put bytes =>
    { h with
      ring := h.ring.put bytes
      given := h.given ++ bytes
      noOverrun := h.noOverrun && decide (h.ring.dropped bytes.length = 0) }
  | .get max =>
    let n := min max h.ring.used
    { h with
      ring := h.ring.advance n
      returned := h.returned ++ h.ring.peek sp n }

/-- A sequence of operations. -/
def RingHistory.run (sp : Space) (h : RingHistory) (ops : List RingStep) : RingHistory :=
  ops.foldl (RingHistory.step sp) h

end Sys2Proof.Machine
end

