-- ==== Sys2Proof/Certificates/Slice0/Obligations.lean ====
section
/-! DEFINITION. The statements for the provers. Each says what an instruction or the machine does by the rules its docstring cites. -/

open Sys2Proof Sys2Proof.Machine

/-! ### Rings (40_ring) -/

/-- RING.INIT completes for MAIN outside a handler and empties the ring; its cells and everything else stay (R100, R173). -/
def Obligations.RingInitEmptiesRing : Prop :=
  ∀ (s : State) (r : RingId), s.agent = .main → s.running = false →
    ∃ t, exec (.ringInit r) s = .next t ∧
      (t.ring r).head.val = 0 ∧ (t.ring r).tail.val = 0 ∧ (t.ring r).used = 0 ∧ t.contents r = [] ∧
      (∀ c, (t.ring r).store.read c = (s.ring r).store.read c) ∧
      SameRingsBut r s t ∧ SameCrc s t ∧ SameStaging s t ∧ SameStats s t ∧ SameKeys s t ∧ SameDispatch s t ∧
      SameTransport s t ∧ SameControl s t ∧ t.events = s.events ∧ t.result = .none

/-- RING.PUT completes for the producer: the newest bytes survive, oldest first; the indices are those of R101; only the cells it
stores to change; one overrun event exactly when bytes are dropped (R101, R102). -/
def Obligations.RingPutKeepsNewest : Prop :=
  ∀ (s : State) (r : RingId) (bytes : List Byte), s.agent = producer r →
    ∃ t, exec (.ringPut r bytes) s = .next t ∧ PutsInto r bytes s t ∧ SameCrc s t ∧ SameStaging s t ∧ SameStats s t ∧ SameKeys s t ∧ SameDispatch s t ∧
      SameTransport s t ∧ SameControl s t ∧ t.result = .none

/-- RING.GET completes for the consumer, an inbound ring's outside a handler: it returns and removes the oldest bytes, writing `head`
alone (R104, R173). -/
def Obligations.RingGetTakesOldest : Prop :=
  ∀ (s : State) (r : RingId) (max : Nat), s.agent = consumer r → (isInbound r = true → s.running = false) →
    ∃ t n, n = min max (s.ring r).used ∧ exec (.ringGet r max) s = .next t ∧
      t.result = .got n ((s.contents r).take n) ∧ t.contents r = (s.contents r).drop n ∧
      (t.ring r).head.val = ((s.ring r).head.val + n) % 129 ∧ (t.ring r).tail = (s.ring r).tail ∧
      (∀ c, (t.ring r).store.read c = (s.ring r).store.read c) ∧
      SameRingsBut r s t ∧ SameCrc s t ∧ SameStaging s t ∧ SameStats s t ∧ SameKeys s t ∧ SameDispatch s t ∧
      SameTransport s t ∧ SameControl s t ∧ t.events = s.events

/-- RING.USED completes for any agent and returns `(tail - head) mod (C+1)`, 0 exactly on an empty ring and `C` exactly on a full one; it
changes nothing (R21, R105). -/
def Obligations.RingUsedCountsBytes : Prop :=
  ∀ (s : State) (r : RingId),
    ∃ n : Nat, exec (.ringUsed r) s = .next { s with result := .count n } ∧
      (n : Int) = (((s.ring r).tail.val : Int) - ((s.ring r).head.val : Int)) % 129 ∧ n ≤ 128 ∧
      (n = 0 ↔ (s.ring r).head = (s.ring r).tail) ∧ (n = 128 ↔ (s.ring r).free = 0) ∧ (s.contents r).length = n

/-- The ring operations of an agent without the right to them, and those a running handler may not issue, raise their fault and write
nothing (R22, R100, R101, R104, R173). -/
def Obligations.RingMisuseRaisesFault : Prop :=
  ∀ (s : State) (r : RingId) (bytes : List Byte) (max : Nat),
    (s.agent ≠ .main → exec (.ringInit r) s = .next (marked s .ringOwnership)) ∧
    (s.agent = .main → s.running = true → exec (.ringInit r) s = .next (marked s .handlerIllegalOp)) ∧
    (s.agent ≠ producer r → exec (.ringPut r bytes) s = .next (marked s .ringOwnership)) ∧
    (s.agent ≠ consumer r → exec (.ringGet r max) s = .next (marked s .ringOwnership)) ∧
    (s.agent = consumer r → isInbound r = true → s.running = true →
      exec (.ringGet r max) s = .next (marked s .handlerIllegalOp))

/-- The FIFO law: without an overrun, the bytes returned and then those held are the bytes put, in order (R106). -/
def Obligations.RingFifoLaw : Prop :=
  ∀ (sp : Space) (x : Ring) (ops : List RingStep),
    ((RingHistory.start x).run sp ops).noOverrun = true →
      ((RingHistory.start x).run sp ops).given =
        ((RingHistory.start x).run sp ops).returned ++ ((RingHistory.start x).run sp ops).ring.contents sp

/-- The overrun law: after puts of more than `C` bytes in all, whatever went before, the ring holds the newest `C` of all bytes ever put,
and a get of `C` returns exactly them (R107). -/
def Obligations.RingOverrunLaw : Prop :=
  ∀ (sp : Space) (x : Ring) (before : List RingStep) (puts : List (List Byte)),
    128 < puts.flatten.length →
      (((RingHistory.start x).run sp (before ++ puts.map RingStep.put)).ring.contents sp =
        lastBytes 128 ((RingHistory.start x).run sp (before ++ puts.map RingStep.put)).given) ∧
      (((RingHistory.start x).run sp (before ++ puts.map RingStep.put ++ [.get 128])).returned =
        ((RingHistory.start x).run sp before).returned ++
          lastBytes 128 ((RingHistory.start x).run sp (before ++ puts.map RingStep.put)).given)

/-- Per-ring order: the bytes returned and then those held are a subsequence of the bytes put, in their order, overruns or not (R59). -/
def Obligations.RingOrderIsKept : Prop :=
  ∀ (sp : Space) (x : Ring) (ops : List RingStep),
    List.Sublist (((RingHistory.start x).run sp ops).returned ++ ((RingHistory.start x).run sp ops).ring.contents sp)
      ((RingHistory.start x).run sp ops).given

/-- Ring operations on different rings touch disjoint state and commute (R52, R53): any two of RING.INIT, RING.PUT, RING.GET and
RING.USED, each issued by an agent with the right to it outside a handler, complete in either order, each with the same result in both,
and leave every ring and all the rest of the block the same; only the order of their events can differ. -/
def Obligations.RingOpsOnDifferentRingsCommute : Prop :=
  ∀ (s : State) (r q : RingId) (v w : RingOp), r ≠ q → s.running = false →
    ∃ a ab b ba, v.exec r s = .next a ∧ w.exec q a = .next ab ∧ w.exec q s = .next b ∧ v.exec r b = .next ba ∧
      ba.result = a.result ∧ ab.result = b.result ∧ (∀ x, ab.ring x = ba.ring x) ∧ ab.events.Perm ba.events ∧
      SameCrc ab ba ∧ SameStaging ab ba ∧ SameStats ab ba ∧ SameKeys ab ba ∧ SameDispatch ab ba ∧ SameTransport ab ba ∧
      ba.faulted = ab.faulted ∧ ba.config = ab.config

/-! ### The CRC engine (41_crc) -/

/-- CRC.INIT, CRC.STEP and CRC.READ complete for MAIN, the last two once the register is valid: the seed, eight single-bit steps of the
register with the byte xored in, and the complement; they change nothing else (R123 to R126). -/
def Obligations.CrcEngineSteps : Prop :=
  ∀ (s : State) (b : Byte), s.agent = .main →
    (∃ t, exec .crcInit s = .next t ∧ t.crcAcc = 0xFFFF#16 ∧ t.crcValid = true ∧ t.result = .none ∧
      SameRings s t ∧ SameStaging s t ∧ SameStats s t ∧ SameKeys s t ∧ SameDispatch s t ∧ SameTransport s t ∧
      SameControl s t ∧ t.events = s.events) ∧
    (s.crcValid = true →
      (∃ t, exec (.crcStep b) s = .next t ∧ t.crcAcc = crcShift^[8] (s.crcAcc ^^^ b.setWidth 16) ∧ t.crcValid = true ∧
        t.result = .none ∧ SameRings s t ∧ SameStaging s t ∧ SameStats s t ∧ SameKeys s t ∧ SameDispatch s t ∧
        SameTransport s t ∧ SameControl s t ∧ t.events = s.events) ∧
      exec .crcRead s = .next { s with result := .checksum (s.crcAcc ^^^ 0xFFFF#16) })

/-- CRC.INIT, a CRC.STEP for each byte of a sequence and CRC.READ return its CRC16, from any register value (R120, R121, R124 to R126). -/
def Obligations.CrcEngineComputesCrc16 : Prop :=
  ∀ (s : State) (bytes : List Byte), s.agent = .main →
    ∃ t, execAll (.crcInit :: (bytes.map Instr.crcStep ++ [.crcRead])) s = .next t ∧
      t.result = .checksum (crc16 bytes) ∧ t.crcAcc = crcReg bytes ∧ t.crcValid = true ∧
      SameRings s t ∧ SameStaging s t ∧ SameStats s t ∧ SameDispatch s t ∧ SameTransport s t ∧ SameControl s t

/-- The CRC operations of another agent than MAIN, and CRC.STEP and CRC.READ before CRC.INIT, raise their fault and write nothing
(R24, R124 to R126). -/
def Obligations.CrcMisuseRaisesFault : Prop :=
  ∀ (s : State) (b : Byte),
    (s.agent ≠ .main → exec .crcInit s = .next (marked s .crcOwnership) ∧
      exec (.crcStep b) s = .next (marked s .crcOwnership) ∧ exec .crcRead s = .next (marked s .crcOwnership)) ∧
    (s.agent = .main → s.crcValid = false → exec (.crcStep b) s = .next (marked s .crcUninitialised) ∧
      exec .crcRead s = .next (marked s .crcUninitialised))

/-- A table step equals eight single-bit steps, for every register and byte; the check value of the family (R123). -/
def Obligations.CrcTableStepIsBitwise : Prop :=
  (∀ (c : Word) (b : Byte), crcStep c b = crcShift^[8] (c ^^^ b.setWidth 16)) ∧
  (∀ c : Word, crcShift c = (c >>> 1) ^^^ (if c &&& 1#16 = 1#16 then 0x8408#16 else 0#16)) ∧
  crc16 [0x31#8, 0x32#8, 0x33#8, 0x34#8, 0x35#8, 0x36#8, 0x37#8, 0x38#8, 0x39#8] = 0x906E#16

/-- A sequence with its checksum appended verifies and leaves the residue 0xF0B8, and the two ways to verify agree on every tail
(R127, R128). -/
def Obligations.CrcRoundTripAndResidue : Prop :=
  ∀ (s : List Byte),
    (∀ lo hi, leBytes (crc16 s) = [lo, hi] → le16 lo hi = crc16 s) ∧
    crcReg (s ++ leBytes (crc16 s)) = 0xF0B8#16 ∧
    ∀ lo hi : Byte, crcReg (s ++ [lo, hi]) = 0xF0B8#16 ↔ le16 lo hi = crc16 s

/-! ### The decoder (42_decoder) -/

/-- Lookup scans the table in its order: it returns the first entry of the id, or none. On a well-formed table that is the only entry
of the id, and the order of the table does not matter (R142). -/
def Obligations.LookupFindsTheEntry : Prop :=
  ∀ (table : List Descriptor) (id : Byte),
    (∀ d, lookup table id = some d ↔
      ∃ before rest, table = before ++ d :: rest ∧ d.commandId = id ∧ ∀ e ∈ before, e.commandId ≠ id) ∧
    (lookup table id = none ↔ ∀ d ∈ table, d.commandId ≠ id) ∧
    (tableWf table = true →
      (∀ d, lookup table id = some d ↔ d ∈ table ∧ d.commandId = id) ∧
      ∀ other, table.Perm other → lookup other id = lookup table id)

/-- A command table is well-formed exactly when its ids are distinct, every entry has `min <= max <= 255`, and every entry has a handler;
the machine refuses any other, in every state (R170). -/
def Obligations.IllFormedTableIsRefused : Prop :=
  ∀ (table : List Descriptor) (s : State),
    (tableWf table = true ↔
      (table.map Descriptor.commandId).Nodup ∧ ∀ d ∈ table, d.min ≤ d.max ∧ d.max ≤ 255 ∧ d.handler ≠ none) ∧
    (table = tableOf s.config → tableWf table = false → step s = .refused .illFormedTable)

/-- DEC.FILL completes for MAIN outside a handler: it moves as many of the oldest inbound bytes as fit behind those staged (R140). -/
def Obligations.DecFillMovesBytes : Prop :=
  ∀ (s : State) (ch : Channel), s.agent = .main → s.decState = .idle →
    ∃ t n, n = min (256 - (s.staging ch).fill) (s.ring (.inb ch)).used ∧ exec (.decFill ch) s = .next t ∧
      t.result = .count n ∧ t.staged ch = s.staged ch ++ (s.contents (.inb ch)).take n ∧
      (t.staging ch).fill = (s.staging ch).fill + n ∧ t.contents (.inb ch) = (s.contents (.inb ch)).drop n ∧
      (t.ring (.inb ch)).head.val = ((s.ring (.inb ch)).head.val + n) % 129 ∧
      (t.ring (.inb ch)).tail = (s.ring (.inb ch)).tail ∧
      (∀ c, (t.ring (.inb ch)).store.read c = (s.ring (.inb ch)).store.read c) ∧
      (∀ c, (∀ k, k < n → c ≠ (s.staging ch).fill + k) → (t.staging ch).cells.read c = (s.staging ch).cells.read c) ∧
      SameRingsBut (.inb ch) s t ∧ SameStagingBut ch s t ∧ SameCrc s t ∧ SameStats s t ∧ SameKeys s t ∧
      SameDispatch s t ∧ SameTransport s t ∧ SameControl s t ∧ t.events = s.events

/-- DEC.FILL, DEC.PASS and HND.RET of another agent than MAIN raise DecoderOwnership, and the first two during a handler raise
DecoderReentry; nothing else is written (R141, R174). -/
def Obligations.DecoderMisuseRaisesFault : Prop :=
  ∀ (s : State) (ch : Channel) (status : Byte),
    (s.agent ≠ .main → exec (.decFill ch) s = .next (marked s .decoderOwnership) ∧
      exec (.decPass ch) s = .next (marked s .decoderOwnership) ∧
      exec (.hndRet status) s = .next (marked s .decoderOwnership)) ∧
    (s.agent = .main → s.running = true → exec (.decFill ch) s = .next (marked s .decoderReentry) ∧
      exec (.decPass ch) s = .next (marked s .decoderReentry))

/-- DEC.PASS with fewer than four staged bytes returns NoCommand and changes nothing, no counter either (R144, R145). -/
def Obligations.DecPassNeedsFourBytes : Prop :=
  ∀ (s : State) (ch : Channel), s.agent = .main → s.decState = .idle → (s.staging ch).fill < 4 →
    exec (.decPass ch) s = .next { s with result := .noCommand }

/-- A rejected front byte: DEC.PASS goes on from the state in which one attempt and its error are counted, its event is recorded, the
first staged byte is gone and nothing else has changed; for an unknown id, a size outside the accepted range, and a wrong checksum of
a complete frame (R143, R145, R147, R148, R149, R151, R232). -/
def Obligations.DecPassResyncsByOne : Prop :=
  ∀ (s : State) (ch : Channel), s.agent = .main → s.decState = .idle →
    4 ≤ (s.staging ch).fill → (s.staging ch).fill ≤ 256 →
    ∀ (n : Nat) (name : StatName) (e : Event), n = (byteAt (s.staged ch) 1).toNat →
      ((lookup (tableOf s.config) (byteAt (s.staged ch) 0) = none ∧ name = .badId ∧
          e = .unknownCommand ch (byteAt (s.staged ch) 0)) ∨
       (∃ d, lookup (tableOf s.config) (byteAt (s.staged ch) 0) = some d ∧ ¬ (d.min ≤ n ∧ n ≤ d.max ∧ n ≤ 252) ∧
          name = .badSize ∧ e = .payloadSizeOutOfRange ch (byteAt (s.staged ch) 0) (byteAt (s.staged ch) 1)) ∨
       (∃ d, lookup (tableOf s.config) (byteAt (s.staged ch) 0) = some d ∧ d.min ≤ n ∧ n ≤ d.max ∧ n ≤ 252 ∧
          4 + n ≤ (s.staging ch).fill ∧
          crc16 ((s.staged ch).take (2 + n)) ≠ le16 (byteAt (s.staged ch) (2 + n)) (byteAt (s.staged ch) (3 + n)) ∧
          name = .badChecksum ∧
          e = .checksumMismatch ch (byteAt (s.staged ch) 0) (crc16 ((s.staged ch).take (2 + n)))
            (le16 (byteAt (s.staged ch) (2 + n)) (byteAt (s.staged ch) (3 + n))))) →
      ∃ u, exec (.decPass ch) s = exec (.decPass ch) u ∧
        u.staged ch = (s.staged ch).drop 1 ∧ (u.staging ch).fill = (s.staging ch).fill - 1 ∧
        (∀ c, (s.staging ch).fill - 1 ≤ c → (u.staging ch).cells.read c = (s.staging ch).cells.read c) ∧
        u.stats = (s.stats.bump .framesAttempted).bump name ∧ u.events = s.events ++ [e] ∧
        SameRings s u ∧ SameStagingBut ch s u ∧ SameCrc s u ∧ SameKeys s u ∧ SameDispatch s u ∧ SameTransport s u ∧
        SameControl s u

/-- An incomplete frame at the front: DEC.PASS counts it, records it, returns NoCommand, and discards no byte (R145, R150, R232). -/
def Obligations.DecPassWaitsForFrame : Prop :=
  ∀ (s : State) (ch : Channel) (d : Descriptor) (n : Nat), s.agent = .main → s.decState = .idle →
    4 ≤ (s.staging ch).fill → n = (byteAt (s.staged ch) 1).toNat →
    lookup (tableOf s.config) (byteAt (s.staged ch) 0) = some d → d.min ≤ n → n ≤ d.max → n ≤ 252 →
    (s.staging ch).fill < 4 + n →
      ∃ t, exec (.decPass ch) s = .next t ∧ t.result = .noCommand ∧
        t.stats = (s.stats.bump .framesAttempted).bump .incomplete ∧
        t.events = s.events ++ [.incompleteFrame ch (byteAt (s.staged ch) 0) (s.staging ch).fill (4 + n)] ∧
        SameRings s t ∧ SameStaging s t ∧ SameCrc s t ∧ SameKeys s t ∧ SameDispatch s t ∧ SameTransport s t ∧
        SameControl s t

/-- A valid frame at the front, whatever follows it: DEC.PASS counts the attempt and the dispatch, hands header and payload to the
handler of its channel, returns Dispatched, and leaves the staged bytes (R73, R144, R152, R173). -/
def Obligations.DecPassDispatchesValidFrame : Prop :=
  ∀ (s : State) (ch : Channel) (d : Descriptor) (id : Byte) (p rest : List Byte), s.agent = .main → s.decState = .idle →
    s.staged ch = frameOf id p ++ rest → lookup (tableOf s.config) id = some d →
    d.min ≤ p.length → p.length ≤ d.max → p.length ≤ 252 →
      ∃ t, exec (.decPass ch) s = .next t ∧ t.result = .dispatched ∧
        t.decState = .inHandler ⟨ch, id, headerAndPayload id p, 2 + p.length, 0⟩ ∧
        t.invocations = s.invocations ++ [⟨ch, id, headerAndPayload id p⟩] ∧
        t.stats = (s.stats.bump .framesAttempted).bump .dispatched ∧ t.events = s.events ∧
        SameRings s t ∧ SameStaging s t ∧ SameCrc s t ∧ SameKeys s t ∧ SameTransport s t ∧ SameControl s t

/-- A pass always completes, raises no fault, makes at most `F - 3` attempts and as many resyncs, and discards bytes from the front
only (R144, R154, R231). -/
def Obligations.DecPassIsBounded : Prop :=
  ∀ (s : State) (ch : Channel), s.agent = .main → s.decState = .idle → (s.staging ch).fill ≤ 256 →
    ∃ t attempts resyncs, exec (.decPass ch) s = .next t ∧ attempts ≤ (s.staging ch).fill - 3 ∧ resyncs ≤ attempts ∧
      t.stats.framesAttempted = s.stats.framesAttempted + BitVec.ofNat 32 attempts ∧
      t.stats.badId + t.stats.badSize + t.stats.badChecksum =
        s.stats.badId + s.stats.badSize + s.stats.badChecksum + BitVec.ofNat 32 resyncs ∧
      t.staged ch = (s.staged ch).drop resyncs ∧
      SameRings s t ∧ SameStagingBut ch s t ∧ SameCrc s t ∧ SameKeys s t ∧ SameTransport s t ∧ SameControl s t

/-- A pass invokes at most one handler, exactly when it returns Dispatched, and then a handler runs (R146, R153). -/
def Obligations.DecPassInvokesAtMostOne : Prop :=
  ∀ (s : State) (ch : Channel), s.agent = .main → s.decState = .idle →
    ∃ t, exec (.decPass ch) s = .next t ∧
      ((t.result = .noCommand ∧ t.decState = .idle ∧ t.invocations = s.invocations ∧
          t.stats.dispatched = s.stats.dispatched) ∨
       (t.result = .dispatched ∧ t.stats.dispatched = s.stats.dispatched + 1 ∧
          ∃ h, t.decState = .inHandler h ∧ h.ch = ch ∧ h.sends = 0 ∧
            t.invocations = s.invocations ++ [⟨ch, h.id, h.frame⟩])) ∧
      t.stats.dispatchedCompleted = s.stats.dispatchedCompleted

/-- The events of a pass: codes 0, 1 or 2, one for each byte discarded, and after them at most one of code 3, only with NoCommand
(R233). -/
def Obligations.DecPassEventsInOrder : Prop :=
  ∀ (s : State) (ch : Channel), s.agent = .main → s.decState = .idle → (s.staging ch).fill ≤ 256 →
    ∃ t rejects last, exec (.decPass ch) s = .next t ∧ t.events = s.events ++ rejects ++ last ∧
      (∀ e ∈ rejects, e.code ≤ 2) ∧ (t.staging ch).fill + rejects.length = (s.staging ch).fill ∧
      (last = [] ∨ (t.result = .noCommand ∧ ∃ e, last = [e] ∧ e.code = 3))

/-- With the staging buffer full a pass dispatches or discards at least one byte (R159). -/
def Obligations.DecPassOnFullBufferProgresses : Prop :=
  ∀ (s : State) (ch : Channel), s.agent = .main → s.decState = .idle → (s.staging ch).fill = 256 →
    ∃ t, exec (.decPass ch) s = .next t ∧ (t.result = .dispatched ∨ (t.staging ch).fill < 256)

/-- Noise in front of a valid frame: where every attempt inside the noise is rejected, one pass discards exactly the noise, one attempt
a byte, and dispatches the frame (R158). -/
def Obligations.DecPassDropsNoiseThenDispatches : Prop :=
  ∀ (s : State) (ch : Channel) (d : Descriptor) (noise : List Byte) (id : Byte) (p rest : List Byte),
    s.agent = .main → s.decState = .idle → (s.staging ch).fill ≤ 256 →
    s.staged ch = noise ++ frameOf id p ++ rest → lookup (tableOf s.config) id = some d →
    d.min ≤ p.length → p.length ≤ d.max → p.length ≤ 252 →
    (∀ k, k < noise.length → rejected (tableOf s.config) ((s.staged ch).drop k) = true) →
      ∃ t, exec (.decPass ch) s = .next t ∧ t.result = .dispatched ∧
        t.decState = .inHandler ⟨ch, id, headerAndPayload id p, 2 + p.length, 0⟩ ∧
        t.staged ch = frameOf id p ++ rest ∧
        t.stats.framesAttempted = s.stats.framesAttempted + BitVec.ofNat 32 (noise.length + 1) ∧
        t.stats.badId + t.stats.badSize + t.stats.badChecksum =
          s.stats.badId + s.stats.badSize + s.stats.badChecksum + BitVec.ofNat 32 noise.length

/-- Partial delivery: a valid frame delivered one byte at a time to an empty staging buffer and an empty inbound ring. Before its last
byte no pass dispatches or resyncs, and each pass from the fourth byte on counts one attempt and one incomplete frame; the last byte
dispatches it (R157). -/
def Obligations.PartialDeliveryDispatchesAtLastByte : Prop :=
  ∀ (s : State) (ch : Channel) (d : Descriptor) (id : Byte) (p : List Byte),
    s.decState = .idle → (s.staging ch).fill = 0 → (s.ring (.inb ch)).used = 0 →
    lookup (tableOf s.config) id = some d → d.min ≤ p.length → p.length ≤ d.max → p.length ≤ 252 →
      (∀ k, k < 4 + p.length →
        ∃ t, deliver ch ((frameOf id p).take k) s = .next t ∧ (0 < k → t.result = .noCommand) ∧ t.decState = .idle ∧ t.invocations = s.invocations ∧
          t.staged ch = (frameOf id p).take k ∧ t.stats.badId = s.stats.badId ∧ t.stats.badSize = s.stats.badSize ∧
          t.stats.badChecksum = s.stats.badChecksum ∧
          t.stats.incomplete = s.stats.incomplete + BitVec.ofNat 32 (k - 3) ∧
          t.stats.framesAttempted = s.stats.framesAttempted + BitVec.ofNat 32 (k - 3)) ∧
      ∃ t, deliver ch (frameOf id p) s = .next t ∧ t.result = .dispatched ∧
        t.decState = .inHandler ⟨ch, id, headerAndPayload id p, 2 + p.length, 0⟩ ∧ t.stats.badId = s.stats.badId ∧
        t.stats.badSize = s.stats.badSize ∧ t.stats.badChecksum = s.stats.badChecksum

/-! ### Dispatch, the encoder and the commands (43_dispatch_encoder) -/

/-- HND.RET completes for MAIN in a handler that has sent once, with any status: the frame's channel has nothing staged, the completion
is counted, the decoder is Idle; the other channel and everything else stay (R174). -/
def Obligations.HndRetCompletesDispatch : Prop :=
  ∀ (s : State) (h : HandlerRun) (status : Byte), s.agent = .main → s.decState = .inHandler h → h.sends = 1 →
    ∃ t, exec (.hndRet status) s = .next t ∧ t.result = .commandProcessed ∧ t.decState = .idle ∧
      (t.staging h.ch).fill = 0 ∧ t.staged h.ch = [] ∧ (t.staging h.ch).cells = (s.staging h.ch).cells ∧
      t.stats = s.stats.bump .dispatchedCompleted ∧ t.invocations = s.invocations ∧ t.events = s.events ∧
      SameStagingBut h.ch s t ∧ SameRings s t ∧ SameCrc s t ∧ SameKeys s t ∧ SameTransport s t ∧ SameControl s t

/-- HND.RET with no handler running or after another number of sends than one raises HandlerContract (R172, R174). -/
def Obligations.HndRetChecksContract : Prop :=
  ∀ (s : State) (status : Byte), s.agent = .main →
    (s.decState = .idle ∨ ∃ h, s.decState = .inHandler h ∧ h.sends ≠ 1) →
      exec (.hndRet status) s = .next (marked s .handlerContract)

/-- ENC.NORM and ENC.DEV complete for MAIN, outside a handler on either channel and in a handler for its first send on its own: OUT(ch)
takes one whole frame of the buffer, with bit 0x40 in its id for ENC.DEV, under the overrun rule; a handler has then sent once more.
`last_keys` stays, but in a read-keypad handler, whose send is its poll: there it takes the bitmask the payload starts with (R28, R188,
R190 to R193; that a buffer without a payload takes the draw at hand is the model's choice, log entry 17). -/
def Obligations.EncoderPutsFrame : Prop :=
  ∀ (s : State) (ch : Channel) (b0 b1 : Byte) (p : List Byte), s.agent = .main → p.length ≤ 252 →
    (∀ h, s.decState = .inHandler h → h.ch = ch ∧ h.sends = 0) →
    ∀ (i : Instr) (f : List Byte),
      ((i = .encNorm ch (b0 :: b1 :: p) ∧ f = frameOf b0 p) ∨ (i = .encDev ch (b0 :: b1 :: p) ∧ f = respOf b0 p)) →
      ∃ t, exec i s = .next t ∧ t.result = .none ∧ f.length = p.length + 4 ∧ PutsInto (.outb ch) f s t ∧
        (s.decState = .idle → t.decState = .idle) ∧
        (∀ h, s.decState = .inHandler h → t.decState = .inHandler { h with sends := 1 }) ∧
        (s.keypadRuns = false → t.lastKeys = s.lastKeys) ∧
        (s.keypadRuns = true → t.lastKeys = p.headD s.draw.keys) ∧
        t.invocations = s.invocations ∧ SameCrc s t ∧ SameStaging s t ∧ SameStats s t ∧ SameTransport s t ∧ SameControl s t

/-- The encoder's faults, in the order of R192: another agent; a buffer shorter than its header or a payload above 252; a second send
of a handler or one on another channel. Nothing is put (R172, R192). -/
def Obligations.EncoderMisuseRaisesFault : Prop :=
  ∀ (s : State) (ch : Channel) (bytes : List Byte) (i : Instr), (i = .encNorm ch bytes ∨ i = .encDev ch bytes) →
    (s.agent ≠ .main → exec i s = .next (marked s .encoderOwnership)) ∧
    (s.agent = .main → (bytes.length < 2 ∨ 254 < bytes.length) → exec i s = .next (marked s .encoderSize)) ∧
    (s.agent = .main → 2 ≤ bytes.length → bytes.length ≤ 254 →
      (∃ h, s.decState = .inHandler h ∧ (h.ch ≠ ch ∨ 1 ≤ h.sends)) → exec i s = .next (marked s .handlerContract))

/-- With room in OUT(ch) for the frame, an ENC.DEV appends exactly the frame and drops nothing (R194). -/
def Obligations.EncoderFrameIsWholeWithRoom : Prop :=
  ∀ (s t : State) (ch : Channel) (b0 b1 : Byte) (p : List Byte),
    p.length + 4 ≤ (s.ring (.outb ch)).free → exec (.encDev ch (b0 :: b1 :: p)) s = .next t → s.faulted = none →
    t.faulted = none →
      t.contents (.outb ch) = s.contents (.outb ch) ++ respOf b0 p ∧ t.events = s.events

/-- The ping handler's response completes for MAIN in a ping dispatch that has not sent: for an empty request OUT(ch) takes
`40 00 21 49`; for another the step is ENC.DEV of `00 00` and PING_ECHO of the payload (R175, R176). -/
def Obligations.PingResponds : Prop :=
  ∀ (s : State) (h : HandlerRun) (p : List Byte), s.agent = .main → s.decState = .inHandler h → h.id = 0x00#8 → h.sends = 0 →
    (p = [] →
      ∃ t, exec (.cmdPing p) s = .next t ∧ t.decState = .inHandler { h with sends := 1 } ∧
        PutsInto (.outb h.ch) [0x40#8, 0x00#8, 0x21#8, 0x49#8] s t ∧ SameCrc s t ∧ SameStaging s t ∧ SameStats s t ∧ SameKeys s t ∧
        SameTransport s t ∧ SameControl s t ∧ t.invocations = s.invocations ∧ t.result = .none) ∧
    (p ≠ [] → exec (.cmdPing p) s = exec (.encDev h.ch (0x00#8 :: 0x00#8 :: Config.pingEcho p)) s)

/-- The read-keypad handler's response completes for MAIN in a read-keypad dispatch that has not sent: `last_keys` takes the drawn
bitmask `K`, and OUT(ch) takes the frame of `K`, the keys pressed and the keys released since the last poll; pressed and released have
no key in common (R28, R186, R188). -/
def Obligations.ReadKeypadReportsEdges : Prop :=
  ∀ (s : State) (h : HandlerRun) (p : List Byte), s.agent = .main → s.decState = .inHandler h → h.id = 0x18#8 → h.sends = 0 →
    ∃ t pressed released, exec (.cmdReadKeypad p) s = .next t ∧ t.lastKeys = s.draw.keys ∧
      (∀ k, pressed.getLsbD k = (s.draw.keys.getLsbD k && !s.lastKeys.getLsbD k)) ∧
      (∀ k, released.getLsbD k = (s.lastKeys.getLsbD k && !s.draw.keys.getLsbD k)) ∧ pressed &&& released = 0#8 ∧
      PutsInto (.outb h.ch) (respOf 0x18#8 [s.draw.keys, pressed, released]) s t ∧
      t.decState = .inHandler { h with sends := 1 } ∧ SameCrc s t ∧ SameStaging s t ∧
      SameStats s t ∧ SameTransport s t ∧ SameControl s t ∧ t.invocations = s.invocations ∧ t.result = .none

/-- The response of each of the eleven external handlers completes for MAIN in a dispatch of its command that has not sent: exactly one
frame of the drawn id and payload on the frame's channel, with bit 0x40 where the draw sends through ENC.DEV. The contract gives the one
response and its channel (R172), and the bodies are draws (R5, R9); that the id byte, the payload and the choice of ENC.DEV or ENC.NORM
are what is drawn is the model's choice (log entry 10). -/
def Obligations.ExternalCommandsRespondOnce : Prop :=
  ∀ (s : State) (h : HandlerRun) (p : List Byte) (i : Instr) (id : Byte),
    (i, id) ∈ [(Instr.cmdWriteFlash p, 0x02#8), (.cmdReadFlash p, 0x03#8), (.cmdReset p, 0x05#8), (.cmdClearScreen p, 0x06#8),
      (.cmdSetCursorPosition p, 0x0B#8), (.cmdSetCursorStyle p, 0x0C#8), (.cmdSetContrast p, 0x0D#8),
      (.cmdSetBacklight p, 0x0E#8), (.cmdConfigureKeyReport p, 0x17#8), (.cmdSendDataToDisplay p, 0x1F#8),
      (.cmdConfigureGpio p, 0x22#8)] →
    s.agent = .main → s.decState = .inHandler h → h.id = id → h.sends = 0 → s.draw.replyPayload.length ≤ 252 →
      ∃ t f, exec i s = .next t ∧
        f = (if s.draw.replyDevice then respOf s.draw.replyId s.draw.replyPayload
          else frameOf s.draw.replyId s.draw.replyPayload) ∧
        PutsInto (.outb h.ch) f s t ∧ t.decState = .inHandler { h with sends := 1 } ∧ SameCrc s t ∧ SameStaging s t ∧
        SameStats s t ∧ SameKeys s t ∧ SameTransport s t ∧ SameControl s t ∧ t.invocations = s.invocations ∧
        t.result = .none

/-- After its response every command's next handler step is the return of R174, and before a dispatch of the command it is
HandlerContract (R172, R174; the latter is the model's choice, log entry 18). -/
def Obligations.CommandsReturnAfterResponse : Prop :=
  ∀ (s : State) (p : List Byte) (status : Byte) (i : Instr) (id : Byte),
    (i, id) ∈ [(Instr.cmdPing p, 0x00#8), (.cmdWriteFlash p, 0x02#8), (.cmdReadFlash p, 0x03#8), (.cmdReset p, 0x05#8),
      (.cmdClearScreen p, 0x06#8), (.cmdSetCursorPosition p, 0x0B#8), (.cmdSetCursorStyle p, 0x0C#8),
      (.cmdSetContrast p, 0x0D#8), (.cmdSetBacklight p, 0x0E#8), (.cmdConfigureKeyReport p, 0x17#8),
      (.cmdReadKeypad p, 0x18#8), (.cmdSendDataToDisplay p, 0x1F#8), (.cmdConfigureGpio p, 0x22#8)] →
    s.agent = .main →
      (∀ h, s.decState = .inHandler h → h.id = id → 1 ≤ h.sends → exec i s = exec (.hndRet status) s) ∧
      (s.decState = .idle → exec i s = .next (marked s .handlerContract))

/-! ### The transports (44_transport) -/

/-- TX.START completes for TX(ch) with a clear latch: the oldest bytes of OUT(ch), at most TX_CHUNK, go to the wire and into the latch;
with an empty ring it returns 0 and the latch stays clear (R212). -/
def Obligations.TxStartSendsChunk : Prop :=
  ∀ (s : State) (ch : Channel), s.agent = .tx ch → (s.latch ch).busy = false →
    ∃ t n out, n = min s.config.txChunk (s.ring (.outb ch)).used ∧ out = (s.contents (.outb ch)).take n ∧
      exec (.txStart ch) s = .next t ∧ t.result = .count n ∧ t.wire ch = s.wire ch ++ out ∧
      t.contents (.outb ch) = (s.contents (.outb ch)).drop n ∧ (t.ring (.outb ch)).store = (s.ring (.outb ch)).store ∧
      (t.ring (.outb ch)).head.val = ((s.ring (.outb ch)).head.val + n) % 129 ∧
      (t.ring (.outb ch)).tail = (s.ring (.outb ch)).tail ∧
      (0 < (s.ring (.outb ch)).used → t.latch ch = ⟨true, out⟩ ∧ 1 ≤ out.length) ∧
      ((s.ring (.outb ch)).used = 0 → t.latch ch = s.latch ch ∧ n = 0) ∧
      SameRingsBut (.outb ch) s t ∧ SameTransportBut ch s t ∧ SameCrc s t ∧ SameStaging s t ∧ SameStats s t ∧
      SameKeys s t ∧ SameDispatch s t ∧ SameControl s t ∧ t.events = s.events

/-- TX.DONE completes for TX(ch) with a set latch and clears it and its chunk; the wire and everything else stay (R213). -/
def Obligations.TxDoneClearsLatch : Prop :=
  ∀ (s : State) (ch : Channel), s.agent = .tx ch → (s.latch ch).busy = true →
    ∃ t, exec (.txDone ch) s = .next t ∧ t.latch ch = ⟨false, []⟩ ∧ t.wire ch = s.wire ch ∧ t.result = .none ∧
      SameTransportBut ch s t ∧ SameRings s t ∧ SameCrc s t ∧ SameStaging s t ∧ SameStats s t ∧ SameKeys s t ∧
      SameDispatch s t ∧ SameControl s t ∧ t.events = s.events

/-- TX.START and TX.DONE of another agent raise RingOwnership; a start while busy and a completion while idle raise TxLatch (R212,
R213). -/
def Obligations.TxMisuseRaisesFault : Prop :=
  ∀ (s : State) (ch : Channel),
    (s.agent ≠ .tx ch → exec (.txStart ch) s = .next (marked s .ringOwnership) ∧
      exec (.txDone ch) s = .next (marked s .ringOwnership)) ∧
    (s.agent = .tx ch → (s.latch ch).busy = true → exec (.txStart ch) s = .next (marked s .txLatch)) ∧
    (s.agent = .tx ch → (s.latch ch).busy = false → exec (.txDone ch) s = .next (marked s .txLatch))

/-- Only TX.START reaches a wire, and it adds to the wire exactly what leaves the front of its outbound ring; so of every instruction, and
of every step, a handler's of an added table entry and the reset event among them (R15, R212, R215). -/
def Obligations.OnlyTxStartReachesWire : Prop :=
  ∀ (s t : State) (ch : Channel),
    (∀ i, exec i s = .next t →
      t.wire ch = s.wire ch ∨
      (i = .txStart ch ∧ s.agent = .tx ch ∧
        ∃ out, t.wire ch = s.wire ch ++ out ∧ s.contents (.outb ch) = out ++ t.contents (.outb ch) ∧
          out.length ≤ s.config.txChunk)) ∧
    (step s = .next t →
      t.wire ch = s.wire ch ∨
      (startsTx s ch = true ∧
        ∃ out, t.wire ch = s.wire ch ++ out ∧ s.contents (.outb ch) = out ++ t.contents (.outb ch) ∧
          out.length ≤ s.config.txChunk))

/-! ### Counters, keys and the other registers: who writes them -/

/-- STAT.READ completes for any agent and returns the counter of its index, changing nothing; index 7 is refused (R27, R81, R235,
R244). -/
def Obligations.StatReadReturnsCounter : Prop :=
  ∀ (s : State),
    (∀ (i : BitVec 3) (v : Counter),
      (i, v) ∈ [(0#3, s.stats.framesAttempted), (1#3, s.stats.badId), (2#3, s.stats.badSize), (3#3, s.stats.badChecksum),
        (4#3, s.stats.incomplete), (5#3, s.stats.dispatched), (6#3, s.stats.dispatchedCompleted)] →
      exec (.statRead i) s = .next { s with result := .counter v }) ∧
    exec (.statRead 7#3) s = .refused (.undecodable (.illFormedOperand 0x50#8 7#8))

/-- `last_keys` is written by the one send of a read-keypad handler alone, and the CRC register by CRC.INIT and CRC.STEP alone; so of
every instruction, and of every step but the reset event, a handler's of an added table entry among them (R24, R28, R127). -/
def Obligations.KeysAndCrcHaveOneWriter : Prop :=
  ∀ (s t : State),
    (∀ i, exec i s = .next t →
      (t.lastKeys = s.lastKeys ∨
        ∃ h, s.decState = .inHandler h ∧ handlerOf (tableOf s.config) h.id = some .readKeypad ∧ h.sends = 0 ∧
          t.decState = .inHandler { h with sends := 1 }) ∧
      (i ≠ .crcInit → (∀ b, i ≠ .crcStep b) → t.crcAcc = s.crcAcc) ∧ (i ≠ .crcInit → t.crcValid = s.crcValid)) ∧
    (step s = .next t → (∀ rest, s.pending ≠ .reset :: rest) →
      (t.lastKeys = s.lastKeys ∨
        ∃ h, s.decState = .inHandler h ∧ handlerOf (tableOf s.config) h.id = some .readKeypad ∧ h.sends = 0 ∧
          t.decState = .inHandler { h with sends := 1 }) ∧
      ((∀ u, fetch s ≠ .run .crcInit u) → (∀ b u, fetch s ≠ .run (.crcStep b) u) → t.crcAcc = s.crcAcc) ∧
      ((∀ u, fetch s ≠ .run .crcInit u) → t.crcValid = s.crcValid))

/-- No counter changes but by DEC.PASS, and `dispatched_completed` alone by a step that returns CommandProcessed; the configuration
never changes; so of every instruction, and of every step, but that the reset event clears the counters (R25, R27). -/
def Obligations.CountersHaveTheirWriters : Prop :=
  ∀ (s t : State),
    (∀ i, exec i s = .next t →
      t.config = s.config ∧
      ((∀ ch, i ≠ .decPass ch) →
        (t.stats = s.stats ∨ (t.result = .commandProcessed ∧ t.stats = s.stats.bump .dispatchedCompleted))) ∧
      (∀ ch, i = .decPass ch → t.stats.dispatchedCompleted = s.stats.dispatchedCompleted)) ∧
    (step s = .next t →
      t.config = s.config ∧
      ((∀ rest, s.pending ≠ .reset :: rest) → (∀ ch u, fetch s ≠ .run (.decPass ch) u) →
        (t.stats = s.stats ∨ (t.result = .commandProcessed ∧ t.stats = s.stats.bump .dispatchedCompleted))) ∧
      (∀ ch u, fetch s = .run (.decPass ch) u → t.stats.dispatchedCompleted = s.stats.dispatchedCompleted))

/-- The law of the counters, kept by every step: attempts are the sum of their outcomes (R145, R249). -/
def Obligations.StepKeepsCountersBalanced : Prop :=
  ∀ (s t : State), s.stats.balanced → step s = .next t → t.stats.balanced

/-- The completions owed, kept by every step: dispatched less completed is 1 while a handler runs and 0 otherwise (R249). -/
def Obligations.StepKeepsCompletionsOwed : Prop :=
  ∀ (s t : State), s.completionsOwed → step s = .next t → t.completionsOwed

/-! ### Faults (60_exceptions) -/

/-- Raising a fault: an instruction that leaves a state marked which was not has set the mark and written nothing else, and has no result;
a mark once set keeps its reason, whatever is executed. The same of every step, a handler's of an added table entry among them, whose
agent, draw and place in the schedule are the model's own fields (log entry 20), and but for the reset event (R31, R236). -/
def Obligations.FaultWritesOnlyTheMark : Prop :=
  ∀ (s t : State),
    (∀ i, exec i s = .next t →
      (∀ r, s.faulted = none → t.faulted = some r → t = { s with faulted := some r, result := .none }) ∧
      (∀ r, s.faulted = some r → t.faulted = some r)) ∧
    (step s = .next t → (∀ rest, s.pending ≠ .reset :: rest) →
      (∀ r, s.faulted = none → t.faulted = some r →
        t = { s with faulted := some r, result := .none, agent := t.agent, draw := t.draw, pending := t.pending }) ∧
      (∀ r, s.faulted = some r → t.faulted = some r))

/-- A faulted state takes no step of an agent; only the reset event takes effect, and it clears the mark (R236, R237, R260). -/
def Obligations.FaultedStateOnlyResets : Prop :=
  ∀ (s : State) (r : FaultReason) (x : Input) (rest : List Input), tableWf (tableOf s.config) = true → s.faulted = some r →
    s.pending = x :: rest →
      (x ≠ .reset → step s = .fault (.halted r)) ∧
      (x = .reset → ∃ t, step s = .next t ∧ t.faulted = none ∧ t.pending = rest)

/-- Executing a well-formed instruction answers a next state in every state, its effect or the mark of a raised fault, and never a stop
(R63, R231, R235). That a raised fault is a next state is read from R236 by inference (log entry 2). It says nothing of `step`, which
takes no step from a marked state (R237). -/
def Obligations.WellFormedInstructionsComplete : Prop :=
  ∀ (i : Instr) (s : State), i.wf = true → ∃ t, exec i s = .next t

/-! ### Reset, the step and the invariants -/

/-- The reset event puts every register at its reset value in one step and leaves the wires (R260, R263). `crc_acc` is not among
them: the spec gives it no value. -/
def Obligations.ResetEventClearsEverything : Prop :=
  ∀ (s : State) (rest : List Input), tableWf (tableOf s.config) = true → s.pending = .reset :: rest →
    ∃ t, step s = .next t ∧
      (∀ r, (t.ring r).head.val = 0 ∧ (t.ring r).tail.val = 0 ∧ t.contents r = []) ∧ t.crcValid = false ∧
      (∀ c, (t.staging c).fill = 0 ∧ t.staged c = []) ∧
      (∀ n, t.stats.get n = 0) ∧ t.lastKeys = 0 ∧ (∀ c, t.latch c = ⟨false, []⟩) ∧ t.decState = .idle ∧ t.faulted = none ∧
      (∀ c, t.wire c = s.wire c) ∧ t.config = s.config ∧ t.pending = rest

/-- The reset state: every register at the reset value the spec gives it, nothing sent, invoked or recorded (R35, R260); and the listed
command table, whose 13 rows are those of R76 with their listed maxima and the handlers of R171, is well-formed. That the table after
reset has no further entries is the model's choice (log entry 6): R7 and R171 leave it open. `crc_acc` is not among the registers: the
spec gives it no value. -/
def Obligations.ResetStateHasSpecValues : Prop :=
  (∀ r, (State.reset.ring r).head.val = 0 ∧ (State.reset.ring r).tail.val = 0 ∧ State.reset.contents r = []) ∧
  State.reset.crcValid = false ∧ (∀ c, (State.reset.staging c).fill = 0) ∧ (∀ n, State.reset.stats.get n = 0) ∧
  State.reset.lastKeys = 0 ∧ (∀ c, State.reset.latch c = ⟨false, []⟩) ∧ State.reset.decState = .idle ∧
  State.reset.faulted = none ∧ (∀ c, State.reset.wire c = []) ∧ State.reset.invocations = [] ∧ State.reset.events = [] ∧
  tableOf State.reset.config = listedTable ∧
  listedTable.map (fun d => (d.commandId.toNat, d.min, d.max, d.handler)) =
    [(0x00, 0, 255, some .ping), (0x02, 16, 16, some .external), (0x03, 16, 16, some .external), (0x05, 3, 3, some .external),
     (0x06, 0, 0, some .external), (0x0B, 2, 2, some .external), (0x0C, 1, 1, some .external), (0x0D, 1, 1, some .external),
     (0x0E, 1, 1, some .external), (0x17, 2, 2, some .external), (0x18, 0, 0, some .readKeypad), (0x1F, 3, 22, some .external),
     (0x22, 0, 255, some .external)] ∧
  tableWf listedTable = true

/-- A step runs the decoded request of the agent at the front of the schedule: `step` is `exec` of it in the state with that agent and
the rest of the schedule (R8, R9, R80). -/
def Obligations.StepRunsDecodedRequest : Prop :=
  ∀ (s : State) (ag : Agent) (r : Request) (rest : List Input) (i : Instr), tableWf (tableOf s.config) = true →
    s.faulted = none → s.pending = .port ag r :: rest → decodeRequest r = .ok i →
      step s = exec i { s with agent := ag, pending := rest }

/-- A handler step of a listed command runs it: `step` is `exec` of the command of the frame being handled, for MAIN, with the step's
draws. A handler step of an entry COMMAND_TABLE adds answers with the frame of the handler the entry names, once, as that handler of a
listed command does (R176, R188; the external one by log entry 10), and its next step is the return (R7, R76, R146, R171 to R174; that a
handler's response and return are steps of a handler input is log entry 9, and the names an entry can give are log entry 21). -/
def Obligations.StepRunsHandledCommand : Prop :=
  ∀ (s : State) (h : HandlerRun) (d : Draw) (rest : List Input),
    tableWf (tableOf s.config) = true → s.faulted = none → s.pending = .handler d :: rest → s.decState = .inHandler h →
    (∀ (i : Instr) (extra : List Byte), decodeCommand h.frame = .ok (i, extra) →
      step s = exec i { s with agent := .main, draw := d, pending := rest }) ∧
    (∀ (e : Descriptor) (p : List Byte), e ∈ s.config.extra → e.commandId = h.id → p.length ≤ 252 →
      h.frame = headerAndPayload h.id p →
      (1 ≤ h.sends → step s = exec (.hndRet d.status) { s with agent := .main, draw := d, pending := rest }) ∧
      (h.sends = 0 → ∀ f,
        ((e.handler = some .external ∧ d.replyPayload.length ≤ 252 ∧
            f = (if d.replyDevice then respOf d.replyId d.replyPayload else frameOf d.replyId d.replyPayload)) ∨
         (e.handler = some .ping ∧ p = [] ∧ f = [0x40#8, 0x00#8, 0x21#8, 0x49#8]) ∨
         (e.handler = some .ping ∧ p ≠ [] ∧ (Config.pingEcho p).length ≤ 252 ∧ f = respOf 0x00#8 (Config.pingEcho p)) ∨
         (e.handler = some .readKeypad ∧
            f = respOf 0x18#8 [d.keys, pressedKeys s.lastKeys d.keys, releasedKeys s.lastKeys d.keys])) →
        ∃ t, step s = .next t ∧ PutsInto (.outb h.ch) f s t ∧ t.decState = .inHandler { h with sends := 1 } ∧
          t.lastKeys = (if e.handler = some .readKeypad then d.keys else s.lastKeys) ∧ SameCrc s t ∧ SameStaging s t ∧
          SameStats s t ∧ SameTransport s t ∧ t.invocations = s.invocations ∧ t.result = .none ∧ t.faulted = none ∧
          t.config = s.config ∧ t.agent = .main ∧ t.draw = d ∧ t.pending = rest))

/-- What has no meaning is refused: an unknown code, a nonzero must-be-0 field, counter index 7 (R80, R81, R235). -/
def Obligations.MeaninglessInputsAreRefused : Prop :=
  ∀ (s : State) (ag : Agent) (r : Request) (rest : List Input),
    tableWf (tableOf s.config) = true → s.faulted = none → s.pending = .port ag r :: rest →
      (r.op ∉ [0x01#8, 0x02#8, 0x03#8, 0x04#8, 0x10#8, 0x11#8, 0x12#8, 0x20#8, 0x21#8, 0x22#8, 0x30#8, 0x31#8, 0x40#8, 0x41#8,
          0x50#8] → step s = .refused (.undecodable (.unknownOperation r.op))) ∧
      (r.op ∈ [0x01#8, 0x04#8] → 4 ≤ r.a.toNat → step s = .refused (.undecodable (.illFormedOperand r.op r.a))) ∧
      (r.op ∈ [0x20#8, 0x21#8, 0x40#8, 0x41#8] → 2 ≤ r.a.toNat →
        step s = .refused (.undecodable (.illFormedOperand r.op r.a))) ∧
      (r.op = 0x50#8 → r.a.toNat % 8 = 7 → step s = .refused (.undecodable (.illFormedOperand r.op r.a)))

/-- The storages, latches and control state stay well-formed under every step: canonical cells, every cell of a used span and every
staged byte written, at most STAGE_CAP bytes staged, the latch set exactly while it guards a chunk of at most TX_CHUNK bytes, a
handler's frame of the right shape (R21, R23, R26, R29, R30, R214). -/
def Obligations.StepKeepsStateWellFormed : Prop :=
  ∀ (s t : State), s.wf = true → step s = .next t → t.wf = true

/-- The frame a handler runs on is the front of its channel's staged bytes, at every step of the handler (R51, R152, R173). -/
def Obligations.StepKeepsHandlerFrameStaged : Prop :=
  ∀ (s t : State), s.frameStaged = true → step s = .next t → t.frameStaged = true

/-- The reset state meets every invariant stated here. -/
def Obligations.ResetMeetsInvariants : Prop :=
  State.reset.wf = true ∧ State.reset.stats.balanced ∧ State.reset.completionsOwed ∧ State.reset.frameStaged = true

/-! ### Encodings (30_encoding) -/

/-- Decoding the encoding of a well-formed instruction gives it back, with every operand (R70, R71, R76, R80, R81). -/
def Obligations.DecodeEncodeRoundTrip : Prop :=
  ∀ (i : Instr), i.wf = true → decode (encode i) = .ok i

/-- The wire frame of a well-formed command, at the front of the staged bytes, is dispatched, and the handler step after it fetches that
very command (R73, R76, R152, R173). -/
def Obligations.WellFormedCommandIsDispatchedAndFetched : Prop :=
  ∀ (i : Instr) (f rest : List Byte) (s : State) (ch : Channel), i.wf = true → encode i = .command f →
    s.agent = .main → s.decState = .idle → s.faulted = none → tableWf (tableOf s.config) = true →
    s.staged ch = withChecksum f ++ rest →
      ∃ t, exec (.decPass ch) s = .next t ∧ t.result = .dispatched ∧
        ∀ (d : Draw) (later : List Input),
          fetch { t with pending := .handler d :: later } =
            .run i { t with agent := .main, draw := d, pending := later }

/-- Words written out from R80, R81 and R70 decode to the instructions they stand for. -/
def Obligations.WordsDecodeAsSpecified : Prop :=
  decodeRequest ⟨0x02#8, 0x02#8, 0, [0x18#8, 0x00#8, 0x16#8, 0x54#8]⟩ =
    .ok (.ringPut (.inb .ch1) [0x18#8, 0x00#8, 0x16#8, 0x54#8]) ∧
  decodeRequest ⟨0x03#8, 0x00#8, 3, []⟩ = .ok (.ringGet (.inb .ch0) 3) ∧
  decodeRequest ⟨0x11#8, 0x47#8, 0, []⟩ = .ok (.crcStep 0x47#8) ∧
  decodeRequest ⟨0x21#8, 0x01#8, 0, []⟩ = .ok (.decPass .ch1) ∧
  decodeRequest ⟨0x31#8, 0x01#8, 0, [0x18#8, 0x00#8, 0x05#8, 0x05#8, 0x00#8]⟩ =
    .ok (.encDev .ch1 [0x18#8, 0x00#8, 0x05#8, 0x05#8, 0x00#8]) ∧
  decodeRequest ⟨0x40#8, 0x01#8, 0, []⟩ = .ok (.txStart .ch1) ∧
  decodeRequest ⟨0x50#8, 0x05#8, 0, []⟩ = .ok (.statRead 5#3) ∧
  decodeCommand [0x00#8, 0x02#8, 0x12#8, 0x34#8, 0xE0#8, 0x98#8] =
    .ok (.cmdPing [0x12#8, 0x34#8], [0xE0#8, 0x98#8]) ∧
  decodeCommand [0x0B#8, 0x02#8, 0x03#8, 0x01#8, 0x92#8, 0xB2#8] =
    .ok (.cmdSetCursorPosition [0x03#8, 0x01#8], [0x92#8, 0xB2#8])
end

