-- ==== Sys2Proof/Laws/State.lean ====
section
/-! SUPPORT. For every update of the state, one lemma for each field and each accessor it leaves alone, and what it writes. -/

namespace Sys2Proof.Machine

variable (s : State)

/-! ### What each update writes -/

@[simp] theorem count_stats (n : StatName) : (s.count n).stats = s.stats.bump n := rfl
@[simp] theorem record_events (e : Event) : (s.record e).events = s.events ++ [e] := rfl
@[simp] theorem finish_result (r : Result) : (s.finish r).result = r := rfl
@[simp] theorem issue_agent (ag : Agent) (rest : List Input) : (s.issue ag rest).agent = ag := rfl
@[simp] theorem issue_pending (ag : Agent) (rest : List Input) : (s.issue ag rest).pending = rest := rfl
@[simp] theorem issueHandler_agent (d : Draw) (rest : List Input) : (s.issueHandler d rest).agent = .main := rfl
@[simp] theorem issueHandler_draw (d : Draw) (rest : List Input) : (s.issueHandler d rest).draw = d := rfl
@[simp] theorem issueHandler_pending (d : Draw) (rest : List Input) : (s.issueHandler d rest).pending = rest := rfl
@[simp] theorem setControl_decState (d : DecState) : (s.setControl d).decState = d := rfl
@[simp] theorem setCrc_crcAcc (acc : Word) (valid : Bool) : (s.setCrc acc valid).crcAcc = acc := rfl
@[simp] theorem setCrc_crcValid (acc : Word) (valid : Bool) : (s.setCrc acc valid).crcValid = valid := rfl
@[simp] theorem setKeys_lastKeys (k : Byte) : (s.setKeys k).lastKeys = k := rfl
@[simp] theorem dispatch_stats (ch : Channel) (bytes : List Byte) (n : Nat) :
    (s.dispatch ch bytes n).stats = s.stats.bump .dispatched := rfl
@[simp] theorem dispatch_decState (ch : Channel) (bytes : List Byte) (n : Nat) :
    (s.dispatch ch bytes n).decState =
      .inHandler ⟨ch, byteAt bytes 0, bytes.take (Config.headerSize + n), Config.headerSize + n, 0⟩ := rfl
@[simp] theorem dispatch_invocations (ch : Channel) (bytes : List Byte) (n : Nat) :
    (s.dispatch ch bytes n).invocations =
      s.invocations ++ [⟨ch, byteAt bytes 0, bytes.take (Config.headerSize + n)⟩] := rfl
@[simp] theorem raise_result (r : FaultReason) : (s.raise r).result = .none := by unfold State.raise; split <;> rfl
theorem raise_faulted (r : FaultReason) : (s.raise r).faulted = some (s.faulted.getD r) := by
  unfold State.raise; split <;> simp_all
@[simp] theorem setRing_ring_self (r : RingId) (x : Ring) : (s.setRing r x).ring r = x := by
  rcases r with (_ | _) | (_ | _) <;> rfl
theorem setRing_ring_other (r q : RingId) (x : Ring) (h : q ≠ r) : (s.setRing r x).ring q = s.ring q := by
  rcases r with (_ | _) | (_ | _) <;> rcases q with (_ | _) | (_ | _) <;> first | rfl | exact absurd rfl h
theorem setRing_ring (r q : RingId) (x : Ring) : (s.setRing r x).ring q = if q = r then x else s.ring q := by
  by_cases h : q = r
  · subst h; simp
  · simp [h, setRing_ring_other s r q x h]
@[simp] theorem setStaging_staging_self (ch : Channel) (x : Staging) : (s.setStaging ch x).staging ch = x := by cases ch <;> rfl
theorem setStaging_staging_other (ch c : Channel) (x : Staging) (h : c ≠ ch) :
    (s.setStaging ch x).staging c = s.staging c := by
  cases ch <;> cases c <;> first | rfl | exact absurd rfl h
@[simp] theorem setLatch_latch_self (ch : Channel) (x : Latch) : (s.setLatch ch x).latch ch = x := by cases ch <;> rfl
theorem setLatch_latch_other (ch c : Channel) (x : Latch) (h : c ≠ ch) : (s.setLatch ch x).latch c = s.latch c := by
  cases ch <;> cases c <;> first | rfl | exact absurd rfl h
@[simp] theorem send_wire_self (ch : Channel) (out : List Byte) : (s.send ch out).wire ch = s.wire ch ++ out := by
  cases ch <;> rfl
theorem send_wire_other (ch c : Channel) (out : List Byte) (h : c ≠ ch) : (s.send ch out).wire c = s.wire c := by
  cases ch <;> cases c <;> first | rfl | exact absurd rfl h
@[simp] theorem stagedSet_self (ch : Channel) (x : Staging) : (s.setStaging ch x).staged ch = x.bytes (.stage ch) := by
  simp [State.staged]
@[simp] theorem contentsSet_self (r : RingId) (x : Ring) : (s.setRing r x).contents r = x.contents (.ring r) := by
  simp [State.contents]

/-! ### What each update leaves alone -/

@[simp] theorem count_in0 (n : StatName) : (s.count n).in0 = s.in0 := rfl
@[simp] theorem count_out0 (n : StatName) : (s.count n).out0 = s.out0 := rfl
@[simp] theorem count_in1 (n : StatName) : (s.count n).in1 = s.in1 := rfl
@[simp] theorem count_out1 (n : StatName) : (s.count n).out1 = s.out1 := rfl
@[simp] theorem count_crcAcc (n : StatName) : (s.count n).crcAcc = s.crcAcc := rfl
@[simp] theorem count_crcValid (n : StatName) : (s.count n).crcValid = s.crcValid := rfl
@[simp] theorem count_stage0 (n : StatName) : (s.count n).stage0 = s.stage0 := rfl
@[simp] theorem count_stage1 (n : StatName) : (s.count n).stage1 = s.stage1 := rfl
@[simp] theorem count_lastKeys (n : StatName) : (s.count n).lastKeys = s.lastKeys := rfl
@[simp] theorem count_tx0 (n : StatName) : (s.count n).tx0 = s.tx0 := rfl
@[simp] theorem count_tx1 (n : StatName) : (s.count n).tx1 = s.tx1 := rfl
@[simp] theorem count_decState (n : StatName) : (s.count n).decState = s.decState := rfl
@[simp] theorem count_faulted (n : StatName) : (s.count n).faulted = s.faulted := rfl
@[simp] theorem count_wire0 (n : StatName) : (s.count n).wire0 = s.wire0 := rfl
@[simp] theorem count_wire1 (n : StatName) : (s.count n).wire1 = s.wire1 := rfl
@[simp] theorem count_invocations (n : StatName) : (s.count n).invocations = s.invocations := rfl
@[simp] theorem count_events (n : StatName) : (s.count n).events = s.events := rfl
@[simp] theorem count_result (n : StatName) : (s.count n).result = s.result := rfl
@[simp] theorem count_config (n : StatName) : (s.count n).config = s.config := rfl
@[simp] theorem count_agent (n : StatName) : (s.count n).agent = s.agent := rfl
@[simp] theorem count_draw (n : StatName) : (s.count n).draw = s.draw := rfl
@[simp] theorem count_pending (n : StatName) : (s.count n).pending = s.pending := rfl
@[simp] theorem count_ring (n : StatName) (q : RingId) : (s.count n).ring q = s.ring q := by rcases q with (_ | _) | (_ | _) <;> simp [State.ring]
@[simp] theorem count_staging (n : StatName) (c : Channel) : (s.count n).staging c = s.staging c := by cases c <;> simp [State.staging]
@[simp] theorem count_latch (n : StatName) (c : Channel) : (s.count n).latch c = s.latch c := by cases c <;> simp [State.latch]
@[simp] theorem count_wire (n : StatName) (c : Channel) : (s.count n).wire c = s.wire c := by cases c <;> simp [State.wire]
@[simp] theorem count_running (n : StatName) : (s.count n).running = s.running := by simp [State.running]
@[simp] theorem count_staged (n : StatName) (c : Channel) : (s.count n).staged c = s.staged c := by simp [State.staged]
@[simp] theorem count_contents (n : StatName) (q : RingId) : (s.count n).contents q = s.contents q := by simp [State.contents]

@[simp] theorem record_in0 (e : Event) : (s.record e).in0 = s.in0 := rfl
@[simp] theorem record_out0 (e : Event) : (s.record e).out0 = s.out0 := rfl
@[simp] theorem record_in1 (e : Event) : (s.record e).in1 = s.in1 := rfl
@[simp] theorem record_out1 (e : Event) : (s.record e).out1 = s.out1 := rfl
@[simp] theorem record_crcAcc (e : Event) : (s.record e).crcAcc = s.crcAcc := rfl
@[simp] theorem record_crcValid (e : Event) : (s.record e).crcValid = s.crcValid := rfl
@[simp] theorem record_stage0 (e : Event) : (s.record e).stage0 = s.stage0 := rfl
@[simp] theorem record_stage1 (e : Event) : (s.record e).stage1 = s.stage1 := rfl
@[simp] theorem record_stats (e : Event) : (s.record e).stats = s.stats := rfl
@[simp] theorem record_lastKeys (e : Event) : (s.record e).lastKeys = s.lastKeys := rfl
@[simp] theorem record_tx0 (e : Event) : (s.record e).tx0 = s.tx0 := rfl
@[simp] theorem record_tx1 (e : Event) : (s.record e).tx1 = s.tx1 := rfl
@[simp] theorem record_decState (e : Event) : (s.record e).decState = s.decState := rfl
@[simp] theorem record_faulted (e : Event) : (s.record e).faulted = s.faulted := rfl
@[simp] theorem record_wire0 (e : Event) : (s.record e).wire0 = s.wire0 := rfl
@[simp] theorem record_wire1 (e : Event) : (s.record e).wire1 = s.wire1 := rfl
@[simp] theorem record_invocations (e : Event) : (s.record e).invocations = s.invocations := rfl
@[simp] theorem record_result (e : Event) : (s.record e).result = s.result := rfl
@[simp] theorem record_config (e : Event) : (s.record e).config = s.config := rfl
@[simp] theorem record_agent (e : Event) : (s.record e).agent = s.agent := rfl
@[simp] theorem record_draw (e : Event) : (s.record e).draw = s.draw := rfl
@[simp] theorem record_pending (e : Event) : (s.record e).pending = s.pending := rfl
@[simp] theorem record_ring (e : Event) (q : RingId) : (s.record e).ring q = s.ring q := by rcases q with (_ | _) | (_ | _) <;> simp [State.ring]
@[simp] theorem record_staging (e : Event) (c : Channel) : (s.record e).staging c = s.staging c := by cases c <;> simp [State.staging]
@[simp] theorem record_latch (e : Event) (c : Channel) : (s.record e).latch c = s.latch c := by cases c <;> simp [State.latch]
@[simp] theorem record_wire (e : Event) (c : Channel) : (s.record e).wire c = s.wire c := by cases c <;> simp [State.wire]
@[simp] theorem record_running (e : Event) : (s.record e).running = s.running := by simp [State.running]
@[simp] theorem record_staged (e : Event) (c : Channel) : (s.record e).staged c = s.staged c := by simp [State.staged]
@[simp] theorem record_contents (e : Event) (q : RingId) : (s.record e).contents q = s.contents q := by simp [State.contents]

@[simp] theorem finish_in0 (r : Result) : (s.finish r).in0 = s.in0 := rfl
@[simp] theorem finish_out0 (r : Result) : (s.finish r).out0 = s.out0 := rfl
@[simp] theorem finish_in1 (r : Result) : (s.finish r).in1 = s.in1 := rfl
@[simp] theorem finish_out1 (r : Result) : (s.finish r).out1 = s.out1 := rfl
@[simp] theorem finish_crcAcc (r : Result) : (s.finish r).crcAcc = s.crcAcc := rfl
@[simp] theorem finish_crcValid (r : Result) : (s.finish r).crcValid = s.crcValid := rfl
@[simp] theorem finish_stage0 (r : Result) : (s.finish r).stage0 = s.stage0 := rfl
@[simp] theorem finish_stage1 (r : Result) : (s.finish r).stage1 = s.stage1 := rfl
@[simp] theorem finish_stats (r : Result) : (s.finish r).stats = s.stats := rfl
@[simp] theorem finish_lastKeys (r : Result) : (s.finish r).lastKeys = s.lastKeys := rfl
@[simp] theorem finish_tx0 (r : Result) : (s.finish r).tx0 = s.tx0 := rfl
@[simp] theorem finish_tx1 (r : Result) : (s.finish r).tx1 = s.tx1 := rfl
@[simp] theorem finish_decState (r : Result) : (s.finish r).decState = s.decState := rfl
@[simp] theorem finish_faulted (r : Result) : (s.finish r).faulted = s.faulted := rfl
@[simp] theorem finish_wire0 (r : Result) : (s.finish r).wire0 = s.wire0 := rfl
@[simp] theorem finish_wire1 (r : Result) : (s.finish r).wire1 = s.wire1 := rfl
@[simp] theorem finish_invocations (r : Result) : (s.finish r).invocations = s.invocations := rfl
@[simp] theorem finish_events (r : Result) : (s.finish r).events = s.events := rfl
@[simp] theorem finish_config (r : Result) : (s.finish r).config = s.config := rfl
@[simp] theorem finish_agent (r : Result) : (s.finish r).agent = s.agent := rfl
@[simp] theorem finish_draw (r : Result) : (s.finish r).draw = s.draw := rfl
@[simp] theorem finish_pending (r : Result) : (s.finish r).pending = s.pending := rfl
@[simp] theorem finish_ring (r : Result) (q : RingId) : (s.finish r).ring q = s.ring q := by rcases q with (_ | _) | (_ | _) <;> simp [State.ring]
@[simp] theorem finish_staging (r : Result) (c : Channel) : (s.finish r).staging c = s.staging c := by cases c <;> simp [State.staging]
@[simp] theorem finish_latch (r : Result) (c : Channel) : (s.finish r).latch c = s.latch c := by cases c <;> simp [State.latch]
@[simp] theorem finish_wire (r : Result) (c : Channel) : (s.finish r).wire c = s.wire c := by cases c <;> simp [State.wire]
@[simp] theorem finish_running (r : Result) : (s.finish r).running = s.running := by simp [State.running]
@[simp] theorem finish_staged (r : Result) (c : Channel) : (s.finish r).staged c = s.staged c := by simp [State.staged]
@[simp] theorem finish_contents (r : Result) (q : RingId) : (s.finish r).contents q = s.contents q := by simp [State.contents]

@[simp] theorem issue_in0 (ag : Agent) (rest : List Input) : (s.issue ag rest).in0 = s.in0 := rfl
@[simp] theorem issue_out0 (ag : Agent) (rest : List Input) : (s.issue ag rest).out0 = s.out0 := rfl
@[simp] theorem issue_in1 (ag : Agent) (rest : List Input) : (s.issue ag rest).in1 = s.in1 := rfl
@[simp] theorem issue_out1 (ag : Agent) (rest : List Input) : (s.issue ag rest).out1 = s.out1 := rfl
@[simp] theorem issue_crcAcc (ag : Agent) (rest : List Input) : (s.issue ag rest).crcAcc = s.crcAcc := rfl
@[simp] theorem issue_crcValid (ag : Agent) (rest : List Input) : (s.issue ag rest).crcValid = s.crcValid := rfl
@[simp] theorem issue_stage0 (ag : Agent) (rest : List Input) : (s.issue ag rest).stage0 = s.stage0 := rfl
@[simp] theorem issue_stage1 (ag : Agent) (rest : List Input) : (s.issue ag rest).stage1 = s.stage1 := rfl
@[simp] theorem issue_stats (ag : Agent) (rest : List Input) : (s.issue ag rest).stats = s.stats := rfl
@[simp] theorem issue_lastKeys (ag : Agent) (rest : List Input) : (s.issue ag rest).lastKeys = s.lastKeys := rfl
@[simp] theorem issue_tx0 (ag : Agent) (rest : List Input) : (s.issue ag rest).tx0 = s.tx0 := rfl
@[simp] theorem issue_tx1 (ag : Agent) (rest : List Input) : (s.issue ag rest).tx1 = s.tx1 := rfl
@[simp] theorem issue_decState (ag : Agent) (rest : List Input) : (s.issue ag rest).decState = s.decState := rfl
@[simp] theorem issue_faulted (ag : Agent) (rest : List Input) : (s.issue ag rest).faulted = s.faulted := rfl
@[simp] theorem issue_wire0 (ag : Agent) (rest : List Input) : (s.issue ag rest).wire0 = s.wire0 := rfl
@[simp] theorem issue_wire1 (ag : Agent) (rest : List Input) : (s.issue ag rest).wire1 = s.wire1 := rfl
@[simp] theorem issue_invocations (ag : Agent) (rest : List Input) : (s.issue ag rest).invocations = s.invocations := rfl
@[simp] theorem issue_events (ag : Agent) (rest : List Input) : (s.issue ag rest).events = s.events := rfl
@[simp] theorem issue_result (ag : Agent) (rest : List Input) : (s.issue ag rest).result = s.result := rfl
@[simp] theorem issue_config (ag : Agent) (rest : List Input) : (s.issue ag rest).config = s.config := rfl
@[simp] theorem issue_draw (ag : Agent) (rest : List Input) : (s.issue ag rest).draw = s.draw := rfl
@[simp] theorem issue_ring (ag : Agent) (rest : List Input) (q : RingId) : (s.issue ag rest).ring q = s.ring q := by rcases q with (_ | _) | (_ | _) <;> simp [State.ring]
@[simp] theorem issue_staging (ag : Agent) (rest : List Input) (c : Channel) : (s.issue ag rest).staging c = s.staging c := by cases c <;> simp [State.staging]
@[simp] theorem issue_latch (ag : Agent) (rest : List Input) (c : Channel) : (s.issue ag rest).latch c = s.latch c := by cases c <;> simp [State.latch]
@[simp] theorem issue_wire (ag : Agent) (rest : List Input) (c : Channel) : (s.issue ag rest).wire c = s.wire c := by cases c <;> simp [State.wire]
@[simp] theorem issue_running (ag : Agent) (rest : List Input) : (s.issue ag rest).running = s.running := by simp [State.running]
@[simp] theorem issue_staged (ag : Agent) (rest : List Input) (c : Channel) : (s.issue ag rest).staged c = s.staged c := by simp [State.staged]
@[simp] theorem issue_contents (ag : Agent) (rest : List Input) (q : RingId) : (s.issue ag rest).contents q = s.contents q := by simp [State.contents]

@[simp] theorem issueHandler_in0 (d : Draw) (rest : List Input) : (s.issueHandler d rest).in0 = s.in0 := rfl
@[simp] theorem issueHandler_out0 (d : Draw) (rest : List Input) : (s.issueHandler d rest).out0 = s.out0 := rfl
@[simp] theorem issueHandler_in1 (d : Draw) (rest : List Input) : (s.issueHandler d rest).in1 = s.in1 := rfl
@[simp] theorem issueHandler_out1 (d : Draw) (rest : List Input) : (s.issueHandler d rest).out1 = s.out1 := rfl
@[simp] theorem issueHandler_crcAcc (d : Draw) (rest : List Input) : (s.issueHandler d rest).crcAcc = s.crcAcc := rfl
@[simp] theorem issueHandler_crcValid (d : Draw) (rest : List Input) : (s.issueHandler d rest).crcValid = s.crcValid := rfl
@[simp] theorem issueHandler_stage0 (d : Draw) (rest : List Input) : (s.issueHandler d rest).stage0 = s.stage0 := rfl
@[simp] theorem issueHandler_stage1 (d : Draw) (rest : List Input) : (s.issueHandler d rest).stage1 = s.stage1 := rfl
@[simp] theorem issueHandler_stats (d : Draw) (rest : List Input) : (s.issueHandler d rest).stats = s.stats := rfl
@[simp] theorem issueHandler_lastKeys (d : Draw) (rest : List Input) : (s.issueHandler d rest).lastKeys = s.lastKeys := rfl
@[simp] theorem issueHandler_tx0 (d : Draw) (rest : List Input) : (s.issueHandler d rest).tx0 = s.tx0 := rfl
@[simp] theorem issueHandler_tx1 (d : Draw) (rest : List Input) : (s.issueHandler d rest).tx1 = s.tx1 := rfl
@[simp] theorem issueHandler_decState (d : Draw) (rest : List Input) : (s.issueHandler d rest).decState = s.decState := rfl
@[simp] theorem issueHandler_faulted (d : Draw) (rest : List Input) : (s.issueHandler d rest).faulted = s.faulted := rfl
@[simp] theorem issueHandler_wire0 (d : Draw) (rest : List Input) : (s.issueHandler d rest).wire0 = s.wire0 := rfl
@[simp] theorem issueHandler_wire1 (d : Draw) (rest : List Input) : (s.issueHandler d rest).wire1 = s.wire1 := rfl
@[simp] theorem issueHandler_invocations (d : Draw) (rest : List Input) : (s.issueHandler d rest).invocations = s.invocations := rfl
@[simp] theorem issueHandler_events (d : Draw) (rest : List Input) : (s.issueHandler d rest).events = s.events := rfl
@[simp] theorem issueHandler_result (d : Draw) (rest : List Input) : (s.issueHandler d rest).result = s.result := rfl
@[simp] theorem issueHandler_config (d : Draw) (rest : List Input) : (s.issueHandler d rest).config = s.config := rfl
@[simp] theorem issueHandler_ring (d : Draw) (rest : List Input) (q : RingId) : (s.issueHandler d rest).ring q = s.ring q := by rcases q with (_ | _) | (_ | _) <;> simp [State.ring]
@[simp] theorem issueHandler_staging (d : Draw) (rest : List Input) (c : Channel) : (s.issueHandler d rest).staging c = s.staging c := by cases c <;> simp [State.staging]
@[simp] theorem issueHandler_latch (d : Draw) (rest : List Input) (c : Channel) : (s.issueHandler d rest).latch c = s.latch c := by cases c <;> simp [State.latch]
@[simp] theorem issueHandler_wire (d : Draw) (rest : List Input) (c : Channel) : (s.issueHandler d rest).wire c = s.wire c := by cases c <;> simp [State.wire]
@[simp] theorem issueHandler_running (d : Draw) (rest : List Input) : (s.issueHandler d rest).running = s.running := by simp [State.running]
@[simp] theorem issueHandler_staged (d : Draw) (rest : List Input) (c : Channel) : (s.issueHandler d rest).staged c = s.staged c := by simp [State.staged]
@[simp] theorem issueHandler_contents (d : Draw) (rest : List Input) (q : RingId) : (s.issueHandler d rest).contents q = s.contents q := by simp [State.contents]

@[simp] theorem setControl_in0 (d : DecState) : (s.setControl d).in0 = s.in0 := rfl
@[simp] theorem setControl_out0 (d : DecState) : (s.setControl d).out0 = s.out0 := rfl
@[simp] theorem setControl_in1 (d : DecState) : (s.setControl d).in1 = s.in1 := rfl
@[simp] theorem setControl_out1 (d : DecState) : (s.setControl d).out1 = s.out1 := rfl
@[simp] theorem setControl_crcAcc (d : DecState) : (s.setControl d).crcAcc = s.crcAcc := rfl
@[simp] theorem setControl_crcValid (d : DecState) : (s.setControl d).crcValid = s.crcValid := rfl
@[simp] theorem setControl_stage0 (d : DecState) : (s.setControl d).stage0 = s.stage0 := rfl
@[simp] theorem setControl_stage1 (d : DecState) : (s.setControl d).stage1 = s.stage1 := rfl
@[simp] theorem setControl_stats (d : DecState) : (s.setControl d).stats = s.stats := rfl
@[simp] theorem setControl_lastKeys (d : DecState) : (s.setControl d).lastKeys = s.lastKeys := rfl
@[simp] theorem setControl_tx0 (d : DecState) : (s.setControl d).tx0 = s.tx0 := rfl
@[simp] theorem setControl_tx1 (d : DecState) : (s.setControl d).tx1 = s.tx1 := rfl
@[simp] theorem setControl_faulted (d : DecState) : (s.setControl d).faulted = s.faulted := rfl
@[simp] theorem setControl_wire0 (d : DecState) : (s.setControl d).wire0 = s.wire0 := rfl
@[simp] theorem setControl_wire1 (d : DecState) : (s.setControl d).wire1 = s.wire1 := rfl
@[simp] theorem setControl_invocations (d : DecState) : (s.setControl d).invocations = s.invocations := rfl
@[simp] theorem setControl_events (d : DecState) : (s.setControl d).events = s.events := rfl
@[simp] theorem setControl_result (d : DecState) : (s.setControl d).result = s.result := rfl
@[simp] theorem setControl_config (d : DecState) : (s.setControl d).config = s.config := rfl
@[simp] theorem setControl_agent (d : DecState) : (s.setControl d).agent = s.agent := rfl
@[simp] theorem setControl_draw (d : DecState) : (s.setControl d).draw = s.draw := rfl
@[simp] theorem setControl_pending (d : DecState) : (s.setControl d).pending = s.pending := rfl
@[simp] theorem setControl_ring (d : DecState) (q : RingId) : (s.setControl d).ring q = s.ring q := by rcases q with (_ | _) | (_ | _) <;> simp [State.ring]
@[simp] theorem setControl_staging (d : DecState) (c : Channel) : (s.setControl d).staging c = s.staging c := by cases c <;> simp [State.staging]
@[simp] theorem setControl_latch (d : DecState) (c : Channel) : (s.setControl d).latch c = s.latch c := by cases c <;> simp [State.latch]
@[simp] theorem setControl_wire (d : DecState) (c : Channel) : (s.setControl d).wire c = s.wire c := by cases c <;> simp [State.wire]
@[simp] theorem setControl_staged (d : DecState) (c : Channel) : (s.setControl d).staged c = s.staged c := by simp [State.staged]
@[simp] theorem setControl_contents (d : DecState) (q : RingId) : (s.setControl d).contents q = s.contents q := by simp [State.contents]

@[simp] theorem setCrc_in0 (acc : Word) (valid : Bool) : (s.setCrc acc valid).in0 = s.in0 := rfl
@[simp] theorem setCrc_out0 (acc : Word) (valid : Bool) : (s.setCrc acc valid).out0 = s.out0 := rfl
@[simp] theorem setCrc_in1 (acc : Word) (valid : Bool) : (s.setCrc acc valid).in1 = s.in1 := rfl
@[simp] theorem setCrc_out1 (acc : Word) (valid : Bool) : (s.setCrc acc valid).out1 = s.out1 := rfl
@[simp] theorem setCrc_stage0 (acc : Word) (valid : Bool) : (s.setCrc acc valid).stage0 = s.stage0 := rfl
@[simp] theorem setCrc_stage1 (acc : Word) (valid : Bool) : (s.setCrc acc valid).stage1 = s.stage1 := rfl
@[simp] theorem setCrc_stats (acc : Word) (valid : Bool) : (s.setCrc acc valid).stats = s.stats := rfl
@[simp] theorem setCrc_lastKeys (acc : Word) (valid : Bool) : (s.setCrc acc valid).lastKeys = s.lastKeys := rfl
@[simp] theorem setCrc_tx0 (acc : Word) (valid : Bool) : (s.setCrc acc valid).tx0 = s.tx0 := rfl
@[simp] theorem setCrc_tx1 (acc : Word) (valid : Bool) : (s.setCrc acc valid).tx1 = s.tx1 := rfl
@[simp] theorem setCrc_decState (acc : Word) (valid : Bool) : (s.setCrc acc valid).decState = s.decState := rfl
@[simp] theorem setCrc_faulted (acc : Word) (valid : Bool) : (s.setCrc acc valid).faulted = s.faulted := rfl
@[simp] theorem setCrc_wire0 (acc : Word) (valid : Bool) : (s.setCrc acc valid).wire0 = s.wire0 := rfl
@[simp] theorem setCrc_wire1 (acc : Word) (valid : Bool) : (s.setCrc acc valid).wire1 = s.wire1 := rfl
@[simp] theorem setCrc_invocations (acc : Word) (valid : Bool) : (s.setCrc acc valid).invocations = s.invocations := rfl
@[simp] theorem setCrc_events (acc : Word) (valid : Bool) : (s.setCrc acc valid).events = s.events := rfl
@[simp] theorem setCrc_result (acc : Word) (valid : Bool) : (s.setCrc acc valid).result = s.result := rfl
@[simp] theorem setCrc_config (acc : Word) (valid : Bool) : (s.setCrc acc valid).config = s.config := rfl
@[simp] theorem setCrc_agent (acc : Word) (valid : Bool) : (s.setCrc acc valid).agent = s.agent := rfl
@[simp] theorem setCrc_draw (acc : Word) (valid : Bool) : (s.setCrc acc valid).draw = s.draw := rfl
@[simp] theorem setCrc_pending (acc : Word) (valid : Bool) : (s.setCrc acc valid).pending = s.pending := rfl
@[simp] theorem setCrc_ring (acc : Word) (valid : Bool) (q : RingId) : (s.setCrc acc valid).ring q = s.ring q := by rcases q with (_ | _) | (_ | _) <;> simp [State.ring]
@[simp] theorem setCrc_staging (acc : Word) (valid : Bool) (c : Channel) : (s.setCrc acc valid).staging c = s.staging c := by cases c <;> simp [State.staging]
@[simp] theorem setCrc_latch (acc : Word) (valid : Bool) (c : Channel) : (s.setCrc acc valid).latch c = s.latch c := by cases c <;> simp [State.latch]
@[simp] theorem setCrc_wire (acc : Word) (valid : Bool) (c : Channel) : (s.setCrc acc valid).wire c = s.wire c := by cases c <;> simp [State.wire]
@[simp] theorem setCrc_running (acc : Word) (valid : Bool) : (s.setCrc acc valid).running = s.running := by simp [State.running]
@[simp] theorem setCrc_staged (acc : Word) (valid : Bool) (c : Channel) : (s.setCrc acc valid).staged c = s.staged c := by simp [State.staged]
@[simp] theorem setCrc_contents (acc : Word) (valid : Bool) (q : RingId) : (s.setCrc acc valid).contents q = s.contents q := by simp [State.contents]

@[simp] theorem setKeys_in0 (k : Byte) : (s.setKeys k).in0 = s.in0 := rfl
@[simp] theorem setKeys_out0 (k : Byte) : (s.setKeys k).out0 = s.out0 := rfl
@[simp] theorem setKeys_in1 (k : Byte) : (s.setKeys k).in1 = s.in1 := rfl
@[simp] theorem setKeys_out1 (k : Byte) : (s.setKeys k).out1 = s.out1 := rfl
@[simp] theorem setKeys_crcAcc (k : Byte) : (s.setKeys k).crcAcc = s.crcAcc := rfl
@[simp] theorem setKeys_crcValid (k : Byte) : (s.setKeys k).crcValid = s.crcValid := rfl
@[simp] theorem setKeys_stage0 (k : Byte) : (s.setKeys k).stage0 = s.stage0 := rfl
@[simp] theorem setKeys_stage1 (k : Byte) : (s.setKeys k).stage1 = s.stage1 := rfl
@[simp] theorem setKeys_stats (k : Byte) : (s.setKeys k).stats = s.stats := rfl
@[simp] theorem setKeys_tx0 (k : Byte) : (s.setKeys k).tx0 = s.tx0 := rfl
@[simp] theorem setKeys_tx1 (k : Byte) : (s.setKeys k).tx1 = s.tx1 := rfl
@[simp] theorem setKeys_decState (k : Byte) : (s.setKeys k).decState = s.decState := rfl
@[simp] theorem setKeys_faulted (k : Byte) : (s.setKeys k).faulted = s.faulted := rfl
@[simp] theorem setKeys_wire0 (k : Byte) : (s.setKeys k).wire0 = s.wire0 := rfl
@[simp] theorem setKeys_wire1 (k : Byte) : (s.setKeys k).wire1 = s.wire1 := rfl
@[simp] theorem setKeys_invocations (k : Byte) : (s.setKeys k).invocations = s.invocations := rfl
@[simp] theorem setKeys_events (k : Byte) : (s.setKeys k).events = s.events := rfl
@[simp] theorem setKeys_result (k : Byte) : (s.setKeys k).result = s.result := rfl
@[simp] theorem setKeys_config (k : Byte) : (s.setKeys k).config = s.config := rfl
@[simp] theorem setKeys_agent (k : Byte) : (s.setKeys k).agent = s.agent := rfl
@[simp] theorem setKeys_draw (k : Byte) : (s.setKeys k).draw = s.draw := rfl
@[simp] theorem setKeys_pending (k : Byte) : (s.setKeys k).pending = s.pending := rfl
@[simp] theorem setKeys_ring (k : Byte) (q : RingId) : (s.setKeys k).ring q = s.ring q := by rcases q with (_ | _) | (_ | _) <;> simp [State.ring]
@[simp] theorem setKeys_staging (k : Byte) (c : Channel) : (s.setKeys k).staging c = s.staging c := by cases c <;> simp [State.staging]
@[simp] theorem setKeys_latch (k : Byte) (c : Channel) : (s.setKeys k).latch c = s.latch c := by cases c <;> simp [State.latch]
@[simp] theorem setKeys_wire (k : Byte) (c : Channel) : (s.setKeys k).wire c = s.wire c := by cases c <;> simp [State.wire]
@[simp] theorem setKeys_running (k : Byte) : (s.setKeys k).running = s.running := by simp [State.running]
@[simp] theorem setKeys_staged (k : Byte) (c : Channel) : (s.setKeys k).staged c = s.staged c := by simp [State.staged]
@[simp] theorem setKeys_contents (k : Byte) (q : RingId) : (s.setKeys k).contents q = s.contents q := by simp [State.contents]

@[simp] theorem dispatch_in0 (ch : Channel) (bytes : List Byte) (n : Nat) : (s.dispatch ch bytes n).in0 = s.in0 := rfl
@[simp] theorem dispatch_out0 (ch : Channel) (bytes : List Byte) (n : Nat) : (s.dispatch ch bytes n).out0 = s.out0 := rfl
@[simp] theorem dispatch_in1 (ch : Channel) (bytes : List Byte) (n : Nat) : (s.dispatch ch bytes n).in1 = s.in1 := rfl
@[simp] theorem dispatch_out1 (ch : Channel) (bytes : List Byte) (n : Nat) : (s.dispatch ch bytes n).out1 = s.out1 := rfl
@[simp] theorem dispatch_crcAcc (ch : Channel) (bytes : List Byte) (n : Nat) : (s.dispatch ch bytes n).crcAcc = s.crcAcc := rfl
@[simp] theorem dispatch_crcValid (ch : Channel) (bytes : List Byte) (n : Nat) : (s.dispatch ch bytes n).crcValid = s.crcValid := rfl
@[simp] theorem dispatch_stage0 (ch : Channel) (bytes : List Byte) (n : Nat) : (s.dispatch ch bytes n).stage0 = s.stage0 := rfl
@[simp] theorem dispatch_stage1 (ch : Channel) (bytes : List Byte) (n : Nat) : (s.dispatch ch bytes n).stage1 = s.stage1 := rfl
@[simp] theorem dispatch_lastKeys (ch : Channel) (bytes : List Byte) (n : Nat) : (s.dispatch ch bytes n).lastKeys = s.lastKeys := rfl
@[simp] theorem dispatch_tx0 (ch : Channel) (bytes : List Byte) (n : Nat) : (s.dispatch ch bytes n).tx0 = s.tx0 := rfl
@[simp] theorem dispatch_tx1 (ch : Channel) (bytes : List Byte) (n : Nat) : (s.dispatch ch bytes n).tx1 = s.tx1 := rfl
@[simp] theorem dispatch_faulted (ch : Channel) (bytes : List Byte) (n : Nat) : (s.dispatch ch bytes n).faulted = s.faulted := rfl
@[simp] theorem dispatch_wire0 (ch : Channel) (bytes : List Byte) (n : Nat) : (s.dispatch ch bytes n).wire0 = s.wire0 := rfl
@[simp] theorem dispatch_wire1 (ch : Channel) (bytes : List Byte) (n : Nat) : (s.dispatch ch bytes n).wire1 = s.wire1 := rfl
@[simp] theorem dispatch_events (ch : Channel) (bytes : List Byte) (n : Nat) : (s.dispatch ch bytes n).events = s.events := rfl
@[simp] theorem dispatch_result (ch : Channel) (bytes : List Byte) (n : Nat) : (s.dispatch ch bytes n).result = s.result := rfl
@[simp] theorem dispatch_config (ch : Channel) (bytes : List Byte) (n : Nat) : (s.dispatch ch bytes n).config = s.config := rfl
@[simp] theorem dispatch_agent (ch : Channel) (bytes : List Byte) (n : Nat) : (s.dispatch ch bytes n).agent = s.agent := rfl
@[simp] theorem dispatch_draw (ch : Channel) (bytes : List Byte) (n : Nat) : (s.dispatch ch bytes n).draw = s.draw := rfl
@[simp] theorem dispatch_pending (ch : Channel) (bytes : List Byte) (n : Nat) : (s.dispatch ch bytes n).pending = s.pending := rfl
@[simp] theorem dispatch_ring (ch : Channel) (bytes : List Byte) (n : Nat) (q : RingId) : (s.dispatch ch bytes n).ring q = s.ring q := by rcases q with (_ | _) | (_ | _) <;> simp [State.ring]
@[simp] theorem dispatch_staging (ch : Channel) (bytes : List Byte) (n : Nat) (c : Channel) : (s.dispatch ch bytes n).staging c = s.staging c := by cases c <;> simp [State.staging]
@[simp] theorem dispatch_latch (ch : Channel) (bytes : List Byte) (n : Nat) (c : Channel) : (s.dispatch ch bytes n).latch c = s.latch c := by cases c <;> simp [State.latch]
@[simp] theorem dispatch_wire (ch : Channel) (bytes : List Byte) (n : Nat) (c : Channel) : (s.dispatch ch bytes n).wire c = s.wire c := by cases c <;> simp [State.wire]
@[simp] theorem dispatch_staged (ch : Channel) (bytes : List Byte) (n : Nat) (c : Channel) : (s.dispatch ch bytes n).staged c = s.staged c := by simp [State.staged]
@[simp] theorem dispatch_contents (ch : Channel) (bytes : List Byte) (n : Nat) (q : RingId) : (s.dispatch ch bytes n).contents q = s.contents q := by simp [State.contents]

@[simp] theorem raise_in0 (r : FaultReason) : (s.raise r).in0 = s.in0 := by unfold State.raise; split <;> rfl
@[simp] theorem raise_out0 (r : FaultReason) : (s.raise r).out0 = s.out0 := by unfold State.raise; split <;> rfl
@[simp] theorem raise_in1 (r : FaultReason) : (s.raise r).in1 = s.in1 := by unfold State.raise; split <;> rfl
@[simp] theorem raise_out1 (r : FaultReason) : (s.raise r).out1 = s.out1 := by unfold State.raise; split <;> rfl
@[simp] theorem raise_crcAcc (r : FaultReason) : (s.raise r).crcAcc = s.crcAcc := by unfold State.raise; split <;> rfl
@[simp] theorem raise_crcValid (r : FaultReason) : (s.raise r).crcValid = s.crcValid := by unfold State.raise; split <;> rfl
@[simp] theorem raise_stage0 (r : FaultReason) : (s.raise r).stage0 = s.stage0 := by unfold State.raise; split <;> rfl
@[simp] theorem raise_stage1 (r : FaultReason) : (s.raise r).stage1 = s.stage1 := by unfold State.raise; split <;> rfl
@[simp] theorem raise_stats (r : FaultReason) : (s.raise r).stats = s.stats := by unfold State.raise; split <;> rfl
@[simp] theorem raise_lastKeys (r : FaultReason) : (s.raise r).lastKeys = s.lastKeys := by unfold State.raise; split <;> rfl
@[simp] theorem raise_tx0 (r : FaultReason) : (s.raise r).tx0 = s.tx0 := by unfold State.raise; split <;> rfl
@[simp] theorem raise_tx1 (r : FaultReason) : (s.raise r).tx1 = s.tx1 := by unfold State.raise; split <;> rfl
@[simp] theorem raise_decState (r : FaultReason) : (s.raise r).decState = s.decState := by unfold State.raise; split <;> rfl
@[simp] theorem raise_wire0 (r : FaultReason) : (s.raise r).wire0 = s.wire0 := by unfold State.raise; split <;> rfl
@[simp] theorem raise_wire1 (r : FaultReason) : (s.raise r).wire1 = s.wire1 := by unfold State.raise; split <;> rfl
@[simp] theorem raise_invocations (r : FaultReason) : (s.raise r).invocations = s.invocations := by unfold State.raise; split <;> rfl
@[simp] theorem raise_events (r : FaultReason) : (s.raise r).events = s.events := by unfold State.raise; split <;> rfl
@[simp] theorem raise_config (r : FaultReason) : (s.raise r).config = s.config := by unfold State.raise; split <;> rfl
@[simp] theorem raise_agent (r : FaultReason) : (s.raise r).agent = s.agent := by unfold State.raise; split <;> rfl
@[simp] theorem raise_draw (r : FaultReason) : (s.raise r).draw = s.draw := by unfold State.raise; split <;> rfl
@[simp] theorem raise_pending (r : FaultReason) : (s.raise r).pending = s.pending := by unfold State.raise; split <;> rfl
@[simp] theorem raise_ring (r : FaultReason) (q : RingId) : (s.raise r).ring q = s.ring q := by rcases q with (_ | _) | (_ | _) <;> simp [State.ring]
@[simp] theorem raise_staging (r : FaultReason) (c : Channel) : (s.raise r).staging c = s.staging c := by cases c <;> simp [State.staging]
@[simp] theorem raise_latch (r : FaultReason) (c : Channel) : (s.raise r).latch c = s.latch c := by cases c <;> simp [State.latch]
@[simp] theorem raise_wire (r : FaultReason) (c : Channel) : (s.raise r).wire c = s.wire c := by cases c <;> simp [State.wire]
@[simp] theorem raise_running (r : FaultReason) : (s.raise r).running = s.running := by simp [State.running]
@[simp] theorem raise_staged (r : FaultReason) (c : Channel) : (s.raise r).staged c = s.staged c := by simp [State.staged]
@[simp] theorem raise_contents (r : FaultReason) (q : RingId) : (s.raise r).contents q = s.contents q := by simp [State.contents]

@[simp] theorem setRing_crcAcc (r : RingId) (x : Ring) : (s.setRing r x).crcAcc = s.crcAcc := by rcases r with (_ | _) | (_ | _) <;> rfl
@[simp] theorem setRing_crcValid (r : RingId) (x : Ring) : (s.setRing r x).crcValid = s.crcValid := by rcases r with (_ | _) | (_ | _) <;> rfl
@[simp] theorem setRing_stage0 (r : RingId) (x : Ring) : (s.setRing r x).stage0 = s.stage0 := by rcases r with (_ | _) | (_ | _) <;> rfl
@[simp] theorem setRing_stage1 (r : RingId) (x : Ring) : (s.setRing r x).stage1 = s.stage1 := by rcases r with (_ | _) | (_ | _) <;> rfl
@[simp] theorem setRing_stats (r : RingId) (x : Ring) : (s.setRing r x).stats = s.stats := by rcases r with (_ | _) | (_ | _) <;> rfl
@[simp] theorem setRing_lastKeys (r : RingId) (x : Ring) : (s.setRing r x).lastKeys = s.lastKeys := by rcases r with (_ | _) | (_ | _) <;> rfl
@[simp] theorem setRing_tx0 (r : RingId) (x : Ring) : (s.setRing r x).tx0 = s.tx0 := by rcases r with (_ | _) | (_ | _) <;> rfl
@[simp] theorem setRing_tx1 (r : RingId) (x : Ring) : (s.setRing r x).tx1 = s.tx1 := by rcases r with (_ | _) | (_ | _) <;> rfl
@[simp] theorem setRing_decState (r : RingId) (x : Ring) : (s.setRing r x).decState = s.decState := by rcases r with (_ | _) | (_ | _) <;> rfl
@[simp] theorem setRing_faulted (r : RingId) (x : Ring) : (s.setRing r x).faulted = s.faulted := by rcases r with (_ | _) | (_ | _) <;> rfl
@[simp] theorem setRing_wire0 (r : RingId) (x : Ring) : (s.setRing r x).wire0 = s.wire0 := by rcases r with (_ | _) | (_ | _) <;> rfl
@[simp] theorem setRing_wire1 (r : RingId) (x : Ring) : (s.setRing r x).wire1 = s.wire1 := by rcases r with (_ | _) | (_ | _) <;> rfl
@[simp] theorem setRing_invocations (r : RingId) (x : Ring) : (s.setRing r x).invocations = s.invocations := by rcases r with (_ | _) | (_ | _) <;> rfl
@[simp] theorem setRing_events (r : RingId) (x : Ring) : (s.setRing r x).events = s.events := by rcases r with (_ | _) | (_ | _) <;> rfl
@[simp] theorem setRing_result (r : RingId) (x : Ring) : (s.setRing r x).result = s.result := by rcases r with (_ | _) | (_ | _) <;> rfl
@[simp] theorem setRing_config (r : RingId) (x : Ring) : (s.setRing r x).config = s.config := by rcases r with (_ | _) | (_ | _) <;> rfl
@[simp] theorem setRing_agent (r : RingId) (x : Ring) : (s.setRing r x).agent = s.agent := by rcases r with (_ | _) | (_ | _) <;> rfl
@[simp] theorem setRing_draw (r : RingId) (x : Ring) : (s.setRing r x).draw = s.draw := by rcases r with (_ | _) | (_ | _) <;> rfl
@[simp] theorem setRing_pending (r : RingId) (x : Ring) : (s.setRing r x).pending = s.pending := by rcases r with (_ | _) | (_ | _) <;> rfl
@[simp] theorem setRing_staging (r : RingId) (x : Ring) (c : Channel) : (s.setRing r x).staging c = s.staging c := by cases c <;> simp [State.staging]
@[simp] theorem setRing_latch (r : RingId) (x : Ring) (c : Channel) : (s.setRing r x).latch c = s.latch c := by cases c <;> simp [State.latch]
@[simp] theorem setRing_wire (r : RingId) (x : Ring) (c : Channel) : (s.setRing r x).wire c = s.wire c := by cases c <;> simp [State.wire]
@[simp] theorem setRing_running (r : RingId) (x : Ring) : (s.setRing r x).running = s.running := by simp [State.running]
@[simp] theorem setRing_staged (r : RingId) (x : Ring) (c : Channel) : (s.setRing r x).staged c = s.staged c := by simp [State.staged]

@[simp] theorem setStaging_in0 (ch : Channel) (x : Staging) : (s.setStaging ch x).in0 = s.in0 := by cases ch <;> rfl
@[simp] theorem setStaging_out0 (ch : Channel) (x : Staging) : (s.setStaging ch x).out0 = s.out0 := by cases ch <;> rfl
@[simp] theorem setStaging_in1 (ch : Channel) (x : Staging) : (s.setStaging ch x).in1 = s.in1 := by cases ch <;> rfl
@[simp] theorem setStaging_out1 (ch : Channel) (x : Staging) : (s.setStaging ch x).out1 = s.out1 := by cases ch <;> rfl
@[simp] theorem setStaging_crcAcc (ch : Channel) (x : Staging) : (s.setStaging ch x).crcAcc = s.crcAcc := by cases ch <;> rfl
@[simp] theorem setStaging_crcValid (ch : Channel) (x : Staging) : (s.setStaging ch x).crcValid = s.crcValid := by cases ch <;> rfl
@[simp] theorem setStaging_stats (ch : Channel) (x : Staging) : (s.setStaging ch x).stats = s.stats := by cases ch <;> rfl
@[simp] theorem setStaging_lastKeys (ch : Channel) (x : Staging) : (s.setStaging ch x).lastKeys = s.lastKeys := by cases ch <;> rfl
@[simp] theorem setStaging_tx0 (ch : Channel) (x : Staging) : (s.setStaging ch x).tx0 = s.tx0 := by cases ch <;> rfl
@[simp] theorem setStaging_tx1 (ch : Channel) (x : Staging) : (s.setStaging ch x).tx1 = s.tx1 := by cases ch <;> rfl
@[simp] theorem setStaging_decState (ch : Channel) (x : Staging) : (s.setStaging ch x).decState = s.decState := by cases ch <;> rfl
@[simp] theorem setStaging_faulted (ch : Channel) (x : Staging) : (s.setStaging ch x).faulted = s.faulted := by cases ch <;> rfl
@[simp] theorem setStaging_wire0 (ch : Channel) (x : Staging) : (s.setStaging ch x).wire0 = s.wire0 := by cases ch <;> rfl
@[simp] theorem setStaging_wire1 (ch : Channel) (x : Staging) : (s.setStaging ch x).wire1 = s.wire1 := by cases ch <;> rfl
@[simp] theorem setStaging_invocations (ch : Channel) (x : Staging) : (s.setStaging ch x).invocations = s.invocations := by cases ch <;> rfl
@[simp] theorem setStaging_events (ch : Channel) (x : Staging) : (s.setStaging ch x).events = s.events := by cases ch <;> rfl
@[simp] theorem setStaging_result (ch : Channel) (x : Staging) : (s.setStaging ch x).result = s.result := by cases ch <;> rfl
@[simp] theorem setStaging_config (ch : Channel) (x : Staging) : (s.setStaging ch x).config = s.config := by cases ch <;> rfl
@[simp] theorem setStaging_agent (ch : Channel) (x : Staging) : (s.setStaging ch x).agent = s.agent := by cases ch <;> rfl
@[simp] theorem setStaging_draw (ch : Channel) (x : Staging) : (s.setStaging ch x).draw = s.draw := by cases ch <;> rfl
@[simp] theorem setStaging_pending (ch : Channel) (x : Staging) : (s.setStaging ch x).pending = s.pending := by cases ch <;> rfl
@[simp] theorem setStaging_ring (ch : Channel) (x : Staging) (q : RingId) : (s.setStaging ch x).ring q = s.ring q := by rcases q with (_ | _) | (_ | _) <;> simp [State.ring]
@[simp] theorem setStaging_latch (ch : Channel) (x : Staging) (c : Channel) : (s.setStaging ch x).latch c = s.latch c := by cases c <;> simp [State.latch]
@[simp] theorem setStaging_wire (ch : Channel) (x : Staging) (c : Channel) : (s.setStaging ch x).wire c = s.wire c := by cases c <;> simp [State.wire]
@[simp] theorem setStaging_running (ch : Channel) (x : Staging) : (s.setStaging ch x).running = s.running := by simp [State.running]
@[simp] theorem setStaging_contents (ch : Channel) (x : Staging) (q : RingId) : (s.setStaging ch x).contents q = s.contents q := by simp [State.contents]

@[simp] theorem setLatch_in0 (ch : Channel) (x : Latch) : (s.setLatch ch x).in0 = s.in0 := by cases ch <;> rfl
@[simp] theorem setLatch_out0 (ch : Channel) (x : Latch) : (s.setLatch ch x).out0 = s.out0 := by cases ch <;> rfl
@[simp] theorem setLatch_in1 (ch : Channel) (x : Latch) : (s.setLatch ch x).in1 = s.in1 := by cases ch <;> rfl
@[simp] theorem setLatch_out1 (ch : Channel) (x : Latch) : (s.setLatch ch x).out1 = s.out1 := by cases ch <;> rfl
@[simp] theorem setLatch_crcAcc (ch : Channel) (x : Latch) : (s.setLatch ch x).crcAcc = s.crcAcc := by cases ch <;> rfl
@[simp] theorem setLatch_crcValid (ch : Channel) (x : Latch) : (s.setLatch ch x).crcValid = s.crcValid := by cases ch <;> rfl
@[simp] theorem setLatch_stage0 (ch : Channel) (x : Latch) : (s.setLatch ch x).stage0 = s.stage0 := by cases ch <;> rfl
@[simp] theorem setLatch_stage1 (ch : Channel) (x : Latch) : (s.setLatch ch x).stage1 = s.stage1 := by cases ch <;> rfl
@[simp] theorem setLatch_stats (ch : Channel) (x : Latch) : (s.setLatch ch x).stats = s.stats := by cases ch <;> rfl
@[simp] theorem setLatch_lastKeys (ch : Channel) (x : Latch) : (s.setLatch ch x).lastKeys = s.lastKeys := by cases ch <;> rfl
@[simp] theorem setLatch_decState (ch : Channel) (x : Latch) : (s.setLatch ch x).decState = s.decState := by cases ch <;> rfl
@[simp] theorem setLatch_faulted (ch : Channel) (x : Latch) : (s.setLatch ch x).faulted = s.faulted := by cases ch <;> rfl
@[simp] theorem setLatch_wire0 (ch : Channel) (x : Latch) : (s.setLatch ch x).wire0 = s.wire0 := by cases ch <;> rfl
@[simp] theorem setLatch_wire1 (ch : Channel) (x : Latch) : (s.setLatch ch x).wire1 = s.wire1 := by cases ch <;> rfl
@[simp] theorem setLatch_invocations (ch : Channel) (x : Latch) : (s.setLatch ch x).invocations = s.invocations := by cases ch <;> rfl
@[simp] theorem setLatch_events (ch : Channel) (x : Latch) : (s.setLatch ch x).events = s.events := by cases ch <;> rfl
@[simp] theorem setLatch_result (ch : Channel) (x : Latch) : (s.setLatch ch x).result = s.result := by cases ch <;> rfl
@[simp] theorem setLatch_config (ch : Channel) (x : Latch) : (s.setLatch ch x).config = s.config := by cases ch <;> rfl
@[simp] theorem setLatch_agent (ch : Channel) (x : Latch) : (s.setLatch ch x).agent = s.agent := by cases ch <;> rfl
@[simp] theorem setLatch_draw (ch : Channel) (x : Latch) : (s.setLatch ch x).draw = s.draw := by cases ch <;> rfl
@[simp] theorem setLatch_pending (ch : Channel) (x : Latch) : (s.setLatch ch x).pending = s.pending := by cases ch <;> rfl
@[simp] theorem setLatch_ring (ch : Channel) (x : Latch) (q : RingId) : (s.setLatch ch x).ring q = s.ring q := by rcases q with (_ | _) | (_ | _) <;> simp [State.ring]
@[simp] theorem setLatch_staging (ch : Channel) (x : Latch) (c : Channel) : (s.setLatch ch x).staging c = s.staging c := by cases c <;> simp [State.staging]
@[simp] theorem setLatch_wire (ch : Channel) (x : Latch) (c : Channel) : (s.setLatch ch x).wire c = s.wire c := by cases c <;> simp [State.wire]
@[simp] theorem setLatch_running (ch : Channel) (x : Latch) : (s.setLatch ch x).running = s.running := by simp [State.running]
@[simp] theorem setLatch_staged (ch : Channel) (x : Latch) (c : Channel) : (s.setLatch ch x).staged c = s.staged c := by simp [State.staged]
@[simp] theorem setLatch_contents (ch : Channel) (x : Latch) (q : RingId) : (s.setLatch ch x).contents q = s.contents q := by simp [State.contents]

@[simp] theorem send_in0 (ch : Channel) (out : List Byte) : (s.send ch out).in0 = s.in0 := by cases ch <;> rfl
@[simp] theorem send_out0 (ch : Channel) (out : List Byte) : (s.send ch out).out0 = s.out0 := by cases ch <;> rfl
@[simp] theorem send_in1 (ch : Channel) (out : List Byte) : (s.send ch out).in1 = s.in1 := by cases ch <;> rfl
@[simp] theorem send_out1 (ch : Channel) (out : List Byte) : (s.send ch out).out1 = s.out1 := by cases ch <;> rfl
@[simp] theorem send_crcAcc (ch : Channel) (out : List Byte) : (s.send ch out).crcAcc = s.crcAcc := by cases ch <;> rfl
@[simp] theorem send_crcValid (ch : Channel) (out : List Byte) : (s.send ch out).crcValid = s.crcValid := by cases ch <;> rfl
@[simp] theorem send_stage0 (ch : Channel) (out : List Byte) : (s.send ch out).stage0 = s.stage0 := by cases ch <;> rfl
@[simp] theorem send_stage1 (ch : Channel) (out : List Byte) : (s.send ch out).stage1 = s.stage1 := by cases ch <;> rfl
@[simp] theorem send_stats (ch : Channel) (out : List Byte) : (s.send ch out).stats = s.stats := by cases ch <;> rfl
@[simp] theorem send_lastKeys (ch : Channel) (out : List Byte) : (s.send ch out).lastKeys = s.lastKeys := by cases ch <;> rfl
@[simp] theorem send_tx0 (ch : Channel) (out : List Byte) : (s.send ch out).tx0 = s.tx0 := by cases ch <;> rfl
@[simp] theorem send_tx1 (ch : Channel) (out : List Byte) : (s.send ch out).tx1 = s.tx1 := by cases ch <;> rfl
@[simp] theorem send_decState (ch : Channel) (out : List Byte) : (s.send ch out).decState = s.decState := by cases ch <;> rfl
@[simp] theorem send_faulted (ch : Channel) (out : List Byte) : (s.send ch out).faulted = s.faulted := by cases ch <;> rfl
@[simp] theorem send_invocations (ch : Channel) (out : List Byte) : (s.send ch out).invocations = s.invocations := by cases ch <;> rfl
@[simp] theorem send_events (ch : Channel) (out : List Byte) : (s.send ch out).events = s.events := by cases ch <;> rfl
@[simp] theorem send_result (ch : Channel) (out : List Byte) : (s.send ch out).result = s.result := by cases ch <;> rfl
@[simp] theorem send_config (ch : Channel) (out : List Byte) : (s.send ch out).config = s.config := by cases ch <;> rfl
@[simp] theorem send_agent (ch : Channel) (out : List Byte) : (s.send ch out).agent = s.agent := by cases ch <;> rfl
@[simp] theorem send_draw (ch : Channel) (out : List Byte) : (s.send ch out).draw = s.draw := by cases ch <;> rfl
@[simp] theorem send_pending (ch : Channel) (out : List Byte) : (s.send ch out).pending = s.pending := by cases ch <;> rfl
@[simp] theorem send_ring (ch : Channel) (out : List Byte) (q : RingId) : (s.send ch out).ring q = s.ring q := by rcases q with (_ | _) | (_ | _) <;> simp [State.ring]
@[simp] theorem send_staging (ch : Channel) (out : List Byte) (c : Channel) : (s.send ch out).staging c = s.staging c := by cases c <;> simp [State.staging]
@[simp] theorem send_latch (ch : Channel) (out : List Byte) (c : Channel) : (s.send ch out).latch c = s.latch c := by cases c <;> simp [State.latch]
@[simp] theorem send_running (ch : Channel) (out : List Byte) : (s.send ch out).running = s.running := by simp [State.running]
@[simp] theorem send_staged (ch : Channel) (out : List Byte) (c : Channel) : (s.send ch out).staged c = s.staged c := by simp [State.staged]
@[simp] theorem send_contents (ch : Channel) (out : List Byte) (q : RingId) : (s.send ch out).contents q = s.contents q := by simp [State.contents]

@[simp] theorem consume_crcAcc (r : RingId) (max : Nat) : (s.consume r max).crcAcc = s.crcAcc := by simp [State.consume]
@[simp] theorem consume_crcValid (r : RingId) (max : Nat) : (s.consume r max).crcValid = s.crcValid := by simp [State.consume]
@[simp] theorem consume_stage0 (r : RingId) (max : Nat) : (s.consume r max).stage0 = s.stage0 := by simp [State.consume]
@[simp] theorem consume_stage1 (r : RingId) (max : Nat) : (s.consume r max).stage1 = s.stage1 := by simp [State.consume]
@[simp] theorem consume_stats (r : RingId) (max : Nat) : (s.consume r max).stats = s.stats := by simp [State.consume]
@[simp] theorem consume_lastKeys (r : RingId) (max : Nat) : (s.consume r max).lastKeys = s.lastKeys := by simp [State.consume]
@[simp] theorem consume_tx0 (r : RingId) (max : Nat) : (s.consume r max).tx0 = s.tx0 := by simp [State.consume]
@[simp] theorem consume_tx1 (r : RingId) (max : Nat) : (s.consume r max).tx1 = s.tx1 := by simp [State.consume]
@[simp] theorem consume_decState (r : RingId) (max : Nat) : (s.consume r max).decState = s.decState := by simp [State.consume]
@[simp] theorem consume_faulted (r : RingId) (max : Nat) : (s.consume r max).faulted = s.faulted := by simp [State.consume]
@[simp] theorem consume_wire0 (r : RingId) (max : Nat) : (s.consume r max).wire0 = s.wire0 := by simp [State.consume]
@[simp] theorem consume_wire1 (r : RingId) (max : Nat) : (s.consume r max).wire1 = s.wire1 := by simp [State.consume]
@[simp] theorem consume_invocations (r : RingId) (max : Nat) : (s.consume r max).invocations = s.invocations := by simp [State.consume]
@[simp] theorem consume_events (r : RingId) (max : Nat) : (s.consume r max).events = s.events := by simp [State.consume]
@[simp] theorem consume_result (r : RingId) (max : Nat) : (s.consume r max).result = s.result := by simp [State.consume]
@[simp] theorem consume_config (r : RingId) (max : Nat) : (s.consume r max).config = s.config := by simp [State.consume]
@[simp] theorem consume_agent (r : RingId) (max : Nat) : (s.consume r max).agent = s.agent := by simp [State.consume]
@[simp] theorem consume_draw (r : RingId) (max : Nat) : (s.consume r max).draw = s.draw := by simp [State.consume]
@[simp] theorem consume_pending (r : RingId) (max : Nat) : (s.consume r max).pending = s.pending := by simp [State.consume]
@[simp] theorem consume_staging (r : RingId) (max : Nat) (c : Channel) : (s.consume r max).staging c = s.staging c := by cases c <;> simp [State.staging]
@[simp] theorem consume_latch (r : RingId) (max : Nat) (c : Channel) : (s.consume r max).latch c = s.latch c := by cases c <;> simp [State.latch]
@[simp] theorem consume_wire (r : RingId) (max : Nat) (c : Channel) : (s.consume r max).wire c = s.wire c := by cases c <;> simp [State.wire]
@[simp] theorem consume_running (r : RingId) (max : Nat) : (s.consume r max).running = s.running := by simp [State.running]
@[simp] theorem consume_staged (r : RingId) (max : Nat) (c : Channel) : (s.consume r max).staged c = s.staged c := by simp [State.staged]

@[simp] theorem resync_in0 (ch : Channel) : (s.resync ch).in0 = s.in0 := by simp [State.resync]
@[simp] theorem resync_out0 (ch : Channel) : (s.resync ch).out0 = s.out0 := by simp [State.resync]
@[simp] theorem resync_in1 (ch : Channel) : (s.resync ch).in1 = s.in1 := by simp [State.resync]
@[simp] theorem resync_out1 (ch : Channel) : (s.resync ch).out1 = s.out1 := by simp [State.resync]
@[simp] theorem resync_crcAcc (ch : Channel) : (s.resync ch).crcAcc = s.crcAcc := by simp [State.resync]
@[simp] theorem resync_crcValid (ch : Channel) : (s.resync ch).crcValid = s.crcValid := by simp [State.resync]
@[simp] theorem resync_stats (ch : Channel) : (s.resync ch).stats = s.stats := by simp [State.resync]
@[simp] theorem resync_lastKeys (ch : Channel) : (s.resync ch).lastKeys = s.lastKeys := by simp [State.resync]
@[simp] theorem resync_tx0 (ch : Channel) : (s.resync ch).tx0 = s.tx0 := by simp [State.resync]
@[simp] theorem resync_tx1 (ch : Channel) : (s.resync ch).tx1 = s.tx1 := by simp [State.resync]
@[simp] theorem resync_decState (ch : Channel) : (s.resync ch).decState = s.decState := by simp [State.resync]
@[simp] theorem resync_faulted (ch : Channel) : (s.resync ch).faulted = s.faulted := by simp [State.resync]
@[simp] theorem resync_wire0 (ch : Channel) : (s.resync ch).wire0 = s.wire0 := by simp [State.resync]
@[simp] theorem resync_wire1 (ch : Channel) : (s.resync ch).wire1 = s.wire1 := by simp [State.resync]
@[simp] theorem resync_invocations (ch : Channel) : (s.resync ch).invocations = s.invocations := by simp [State.resync]
@[simp] theorem resync_events (ch : Channel) : (s.resync ch).events = s.events := by simp [State.resync]
@[simp] theorem resync_result (ch : Channel) : (s.resync ch).result = s.result := by simp [State.resync]
@[simp] theorem resync_config (ch : Channel) : (s.resync ch).config = s.config := by simp [State.resync]
@[simp] theorem resync_agent (ch : Channel) : (s.resync ch).agent = s.agent := by simp [State.resync]
@[simp] theorem resync_draw (ch : Channel) : (s.resync ch).draw = s.draw := by simp [State.resync]
@[simp] theorem resync_pending (ch : Channel) : (s.resync ch).pending = s.pending := by simp [State.resync]
@[simp] theorem resync_ring (ch : Channel) (q : RingId) : (s.resync ch).ring q = s.ring q := by rcases q with (_ | _) | (_ | _) <;> simp [State.ring]
@[simp] theorem resync_latch (ch : Channel) (c : Channel) : (s.resync ch).latch c = s.latch c := by cases c <;> simp [State.latch]
@[simp] theorem resync_wire (ch : Channel) (c : Channel) : (s.resync ch).wire c = s.wire c := by cases c <;> simp [State.wire]
@[simp] theorem resync_running (ch : Channel) : (s.resync ch).running = s.running := by simp [State.running]
@[simp] theorem resync_contents (ch : Channel) (q : RingId) : (s.resync ch).contents q = s.contents q := by simp [State.contents]

@[simp] theorem put_crcAcc (r : RingId) (bytes : List Byte) : (s.put r bytes).crcAcc = s.crcAcc := by unfold State.put; dsimp only; split <;> simp
@[simp] theorem put_crcValid (r : RingId) (bytes : List Byte) : (s.put r bytes).crcValid = s.crcValid := by unfold State.put; dsimp only; split <;> simp
@[simp] theorem put_stage0 (r : RingId) (bytes : List Byte) : (s.put r bytes).stage0 = s.stage0 := by unfold State.put; dsimp only; split <;> simp
@[simp] theorem put_stage1 (r : RingId) (bytes : List Byte) : (s.put r bytes).stage1 = s.stage1 := by unfold State.put; dsimp only; split <;> simp
@[simp] theorem put_stats (r : RingId) (bytes : List Byte) : (s.put r bytes).stats = s.stats := by unfold State.put; dsimp only; split <;> simp
@[simp] theorem put_lastKeys (r : RingId) (bytes : List Byte) : (s.put r bytes).lastKeys = s.lastKeys := by unfold State.put; dsimp only; split <;> simp
@[simp] theorem put_tx0 (r : RingId) (bytes : List Byte) : (s.put r bytes).tx0 = s.tx0 := by unfold State.put; dsimp only; split <;> simp
@[simp] theorem put_tx1 (r : RingId) (bytes : List Byte) : (s.put r bytes).tx1 = s.tx1 := by unfold State.put; dsimp only; split <;> simp
@[simp] theorem put_decState (r : RingId) (bytes : List Byte) : (s.put r bytes).decState = s.decState := by unfold State.put; dsimp only; split <;> simp
@[simp] theorem put_faulted (r : RingId) (bytes : List Byte) : (s.put r bytes).faulted = s.faulted := by unfold State.put; dsimp only; split <;> simp
@[simp] theorem put_wire0 (r : RingId) (bytes : List Byte) : (s.put r bytes).wire0 = s.wire0 := by unfold State.put; dsimp only; split <;> simp
@[simp] theorem put_wire1 (r : RingId) (bytes : List Byte) : (s.put r bytes).wire1 = s.wire1 := by unfold State.put; dsimp only; split <;> simp
@[simp] theorem put_invocations (r : RingId) (bytes : List Byte) : (s.put r bytes).invocations = s.invocations := by unfold State.put; dsimp only; split <;> simp
@[simp] theorem put_result (r : RingId) (bytes : List Byte) : (s.put r bytes).result = s.result := by unfold State.put; dsimp only; split <;> simp
@[simp] theorem put_config (r : RingId) (bytes : List Byte) : (s.put r bytes).config = s.config := by unfold State.put; dsimp only; split <;> simp
@[simp] theorem put_agent (r : RingId) (bytes : List Byte) : (s.put r bytes).agent = s.agent := by unfold State.put; dsimp only; split <;> simp
@[simp] theorem put_draw (r : RingId) (bytes : List Byte) : (s.put r bytes).draw = s.draw := by unfold State.put; dsimp only; split <;> simp
@[simp] theorem put_pending (r : RingId) (bytes : List Byte) : (s.put r bytes).pending = s.pending := by unfold State.put; dsimp only; split <;> simp
@[simp] theorem put_staging (r : RingId) (bytes : List Byte) (c : Channel) : (s.put r bytes).staging c = s.staging c := by cases c <;> simp [State.staging]
@[simp] theorem put_latch (r : RingId) (bytes : List Byte) (c : Channel) : (s.put r bytes).latch c = s.latch c := by cases c <;> simp [State.latch]
@[simp] theorem put_wire (r : RingId) (bytes : List Byte) (c : Channel) : (s.put r bytes).wire c = s.wire c := by cases c <;> simp [State.wire]
@[simp] theorem put_running (r : RingId) (bytes : List Byte) : (s.put r bytes).running = s.running := by simp [State.running]
@[simp] theorem put_staged (r : RingId) (bytes : List Byte) (c : Channel) : (s.put r bytes).staged c = s.staged c := by simp [State.staged]

end Sys2Proof.Machine
end

