-- ==== Sys2Proof/Laws/Storage.lean ====
section
/-! SUPPORT. The byte storages: reads after writes, the canonical form, and what the ring and staging operations do to them. -/

namespace Sys2Proof.Machine

/-! ### Reads after writes -/

@[simp] theorem Cells.read_write_same (m : Cells) (i : Nat) (v : Byte) : (m.write i v).read i = some v := by
  induction m with
  | nil => simp [Cells.write, Cells.read]
  | cons e rest ih =>
    obtain ⟨a, w⟩ := e
    unfold Cells.write
    split
    · simp [Cells.read]
    · split
      · simp [Cells.read]
      · have : a ≠ i := fun h => by omega
        simp [Cells.read, this, ih]

theorem Cells.read_write_other (m : Cells) (i j : Nat) (v : Byte) (h : j ≠ i) : (m.write i v).read j = m.read j := by
  induction m with
  | nil => simp [Cells.write, Cells.read, Ne.symm h]
  | cons e rest ih =>
    obtain ⟨a, w⟩ := e
    unfold Cells.write
    split
    · simp [Cells.read, Ne.symm h]
    · split
      · next hia => subst hia; simp [Cells.read, Ne.symm h]
      · simp [Cells.read, ih]

/-- A run of writes leaves a cell outside the written span alone. -/
theorem Cells.read_writeFrom_other (size : Nat) (bytes : List Byte) :
    ∀ (m : Cells) (i j : Nat), (∀ k, k < bytes.length → (i + k) % size ≠ j) → (m.writeFrom size i bytes).read j = m.read j := by
  induction bytes with
  | nil => intro m i j _; rfl
  | cons b rest ih =>
    intro m i j h
    unfold Cells.writeFrom
    rw [ih _ _ _ (fun k hk => by have := h (k + 1) (by simp; omega); rwa [show i + 1 + k = i + (k + 1) by omega])]
    exact Cells.read_write_other _ _ _ _ (Ne.symm (h 0 (by simp)))

/-- A run of at most `size` writes puts byte `k` in cell `(i + k) mod size`. -/
theorem Cells.read_writeFrom (size : Nat) (bytes : List Byte) :
    ∀ (m : Cells) (i k : Nat), bytes.length ≤ size → (hk : k < bytes.length) →
      (m.writeFrom size i bytes).read ((i + k) % size) = some bytes[k] := by
  induction bytes with
  | nil => intro m i k _ hk; simp at hk
  | cons b rest ih =>
    intro m i k hl hk
    unfold Cells.writeFrom
    cases k with
    | zero =>
      rw [Cells.read_writeFrom_other]
      · simp
      · intro k hk' heq
        simp only [List.length_cons] at hl
        have hd := Nat.sub_mod_eq_zero_of_mod_eq heq
        rw [show i + 1 + k - (i + 0) = k + 1 by omega] at hd
        have := Nat.le_of_dvd (by omega) (Nat.dvd_of_mod_eq_zero hd)
        omega
    | succ k =>
      simp only [List.length_cons] at hl hk
      rw [show i + (k + 1) = i + 1 + k by omega, ih _ _ _ (by omega) (by omega)]
      simp

/-! ### The canonical form -/

theorem Cells.wf_tail {size a : Nat} {v : Byte} {m : Cells} (h : Cells.wf size ((a, v) :: m) = true) : m.wf size = true := by
  cases m with
  | nil => rfl
  | cons e rest => obtain ⟨b, w⟩ := e; simp [Cells.wf] at h; exact h.2

/-- The first cell number a write leaves in front is the old one or the written one. -/
theorem Cells.write_head (m : Cells) (i : Nat) (v : Byte) (a : Nat) (w : Byte) (hi : a < i)
    (h : Cells.wf size ((a, w) :: m) = true) (hm : (m.write i v).wf size = true) :
    Cells.wf size ((a, w) :: m.write i v) = true := by
  cases m with
  | nil => simp_all [Cells.write, Cells.wf]
  | cons e rest =>
    obtain ⟨b, x⟩ := e
    unfold Cells.write at hm ⊢
    simp only [Cells.wf, Bool.and_eq_true, decide_eq_true_eq] at h
    split at hm <;> rename_i hb
    · rw [if_pos hb]; simp only [Cells.wf, Bool.and_eq_true, decide_eq_true_eq] at hm ⊢; exact ⟨hi, hm⟩
    · rw [if_neg hb]
      split at hm <;> rename_i hb'
      · rw [if_pos hb']
        cases rest with
        | nil => simp_all [Cells.wf]
        | cons e' r' => obtain ⟨c, y⟩ := e'; simp only [Cells.wf, Bool.and_eq_true, decide_eq_true_eq] at hm ⊢; exact ⟨hi, hm⟩
      · rw [if_neg hb']
        cases hw : Cells.write rest i v with
        | nil => rw [hw] at hm; simp_all [Cells.wf]
        | cons e' r' =>
          obtain ⟨c, y⟩ := e'
          rw [hw] at hm
          simp only [Cells.wf, Bool.and_eq_true, decide_eq_true_eq] at hm ⊢
          exact ⟨h.1, hm⟩

theorem Cells.wf_head_lt {size a : Nat} {v : Byte} {m : Cells} (h : Cells.wf size ((a, v) :: m) = true) : a < size := by
  induction m generalizing a v with
  | nil => simpa [Cells.wf] using h
  | cons e rest ih =>
    obtain ⟨b, w⟩ := e
    simp only [Cells.wf, Bool.and_eq_true, decide_eq_true_eq] at h
    exact Nat.lt_trans h.1 (ih h.2)

/-- A write inside the storage keeps the canonical form. -/
theorem Cells.wf_write {size : Nat} {m : Cells} {i : Nat} {v : Byte} (hi : i < size) (h : m.wf size = true) :
    (m.write i v).wf size = true := by
  induction m with
  | nil => simpa [Cells.write, Cells.wf] using hi
  | cons e rest ih =>
    obtain ⟨a, w⟩ := e
    have hr := ih (Cells.wf_tail h)
    by_cases h1 : i < a
    · have : Cells.write ((a, w) :: rest) i v = (i, v) :: (a, w) :: rest := by simp [Cells.write, h1]
      rw [this]; simp only [Cells.wf, Bool.and_eq_true, decide_eq_true_eq]; exact ⟨h1, h⟩
    · by_cases h2 : i = a
      · subst h2
        have : Cells.write ((i, w) :: rest) i v = (i, v) :: rest := by simp [Cells.write]
        rw [this]
        cases rest with
        | nil => simpa [Cells.wf] using hi
        | cons e' r' => obtain ⟨b, x⟩ := e'; simpa [Cells.wf] using h
      · have : Cells.write ((a, w) :: rest) i v = (a, w) :: Cells.write rest i v := by simp [Cells.write, h1, h2]
        rw [this]
        exact Cells.write_head rest i v a w (by omega) h hr

theorem Cells.wf_writeFrom {size : Nat} (hs : 0 < size) (bytes : List Byte) :
    ∀ (m : Cells) (i : Nat), m.wf size = true → (m.writeFrom size i bytes).wf size = true := by
  induction bytes with
  | nil => intro m i h; exact h
  | cons b rest ih => intro m i h; exact ih _ _ (Cells.wf_write (Nat.mod_lt _ hs) h)

/-- A put keeps a ring's store canonical. -/
theorem Ring.wf_store_put (x : Ring) (bytes : List Byte) (h : x.store.wf Config.storeSize = true) :
    (x.put bytes).store.wf Config.storeSize = true := by
  unfold Ring.put
  split
  · simp only [Ring.overwrite]; exact Cells.wf_writeFrom (Nat.succ_pos 128) _ _ _ h
  · simp only [Ring.append]; exact Cells.wf_writeFrom (Nat.succ_pos 128) _ _ _ h

/-- Moving `head` and emptying a ring leave its store alone. -/
@[simp] theorem Ring.advance_store (x : Ring) (n : Nat) : (x.advance n).store = x.store := rfl
@[simp] theorem Ring.advance_tail (x : Ring) (n : Nat) : (x.advance n).tail = x.tail := rfl
@[simp] theorem Ring.init_store (x : Ring) : x.init.store = x.store := rfl

/-- Adding to and shifting down a staging buffer keep its cells canonical. -/
theorem Staging.wf_cells_append (x : Staging) (bytes : List Byte) (h : x.cells.wf Config.stageCap = true) :
    (x.append bytes).cells.wf Config.stageCap = true := Cells.wf_writeFrom (Nat.succ_pos 255) _ _ _ h

theorem Staging.wf_cells_resync (sp : Space) (x : Staging) (h : x.cells.wf Config.stageCap = true) :
    (x.resync sp).cells.wf Config.stageCap = true := Cells.wf_writeFrom (Nat.succ_pos 255) _ _ _ h

theorem Staging.wf_cells_clear (x : Staging) (h : x.cells.wf Config.stageCap = true) : x.clear.cells.wf Config.stageCap = true := h

/-- The storages of the reset state are canonical. -/
theorem reset_storages_wf : (Cells.wf Config.storeSize Ring.reset.store && Cells.wf Config.stageCap Staging.reset.cells) = true := rfl

/-! ### Rings: counts -/

theorem Ring.used_lt (x : Ring) : x.used < Config.storeSize := Nat.mod_lt _ (by decide)
theorem Ring.used_le (x : Ring) : x.used ≤ Config.ringCapacity := Nat.le_of_lt_succ x.used_lt
theorem Ring.cell_lt (x : Ring) (i : Nat) : x.cell i < Config.storeSize := Nat.mod_lt _ (by decide)
@[simp] theorem Ring.peek_length (sp : Space) (x : Ring) (n : Nat) : (x.peek sp n).length = n := by simp [Ring.peek]
@[simp] theorem Ring.contents_length (sp : Space) (x : Ring) : (x.contents sp).length = x.used := by simp [Ring.contents]
@[simp] theorem Ring.init_used (x : Ring) : x.init.used = 0 := by simp [Ring.used, Ring.init]
@[simp] theorem Ring.init_contents (sp : Space) (x : Ring) : x.init.contents sp = [] := by simp [Ring.contents, Ring.peek]
@[simp] theorem front_length (s : State) (r : RingId) (max : Nat) : (s.front r max).length = min max (s.ring r).used := by
  simp [State.front]

/-! ### Staging buffers: the staged bytes -/

@[simp] theorem Staging.bytes_length (sp : Space) (x : Staging) : (x.bytes sp).length = x.fill := by simp [Staging.bytes]
@[simp] theorem staged_length (s : State) (ch : Channel) : (s.staged ch).length = (s.staging ch).fill := by simp [State.staged]
@[simp] theorem Staging.append_fill (x : Staging) (bytes : List Byte) : (x.append bytes).fill = x.fill + bytes.length := rfl
@[simp] theorem Staging.resync_fill (sp : Space) (x : Staging) : (x.resync sp).fill = x.fill - 1 := rfl
@[simp] theorem Staging.clear_fill (x : Staging) : x.clear.fill = 0 := rfl
@[simp] theorem Staging.clear_bytes (sp : Space) (x : Staging) : x.clear.bytes sp = [] := rfl

/-- The staged bytes, one by one. -/
theorem Staging.bytes_getElem (sp : Space) (x : Staging) (i : Nat) (h : i < (x.bytes sp).length) :
    (x.bytes sp)[i] = x.cells.value sp i := by simp [Staging.bytes]

/-- Bytes added go after those staged (R140). -/
theorem Staging.append_bytes (sp : Space) (x : Staging) (new : List Byte) (h : x.fill + new.length ≤ Config.stageCap) :
    (x.append new).bytes sp = x.bytes sp ++ new := by
  apply List.ext_getElem
  · simp
  · intro i h1 h2
    simp only [Staging.bytes_length, Staging.append_fill] at h1
    rw [Staging.bytes_getElem]
    unfold Cells.value Staging.append
    by_cases hi : i < x.fill
    · rw [List.getElem_append_left (by simpa using hi), Staging.bytes_getElem, Cells.read_writeFrom_other]
      · rfl
      · intro k hk; rw [Nat.mod_eq_of_lt (by omega)]; omega
    · rw [List.getElem_append_right (by simp; omega)]
      obtain ⟨k, rfl⟩ : ∃ k, i = x.fill + k := ⟨i - x.fill, by omega⟩
      have := Cells.read_writeFrom Config.stageCap new x.cells x.fill k (by omega) (by omega)
      rw [Nat.mod_eq_of_lt (by omega)] at this
      simp [this]

/-- Resync-by-one discards exactly the first staged byte (R147). -/
theorem Staging.resync_bytes (sp : Space) (x : Staging) (h : x.fill ≤ Config.stageCap) :
    (x.resync sp).bytes sp = (x.bytes sp).drop 1 := by
  apply List.ext_getElem
  · simp
  · intro i h1 h2
    simp only [Staging.bytes_length, Staging.resync_fill] at h1
    rw [Staging.bytes_getElem]
    have := Cells.read_writeFrom Config.stageCap ((x.bytes sp).drop 1) x.cells 0 i (by simp; omega) h2
    rw [Nat.mod_eq_of_lt (by omega), Nat.zero_add] at this
    simp only [Cells.value, Staging.resync, this, Option.getD_some]

end Sys2Proof.Machine
end

