-- ==== Sys2Proof/Laws/Ops.lean ====
section
/-! SUPPORT. For each shared operation, one lemma that says everything it can do: settling a step, the encoder's body, the handler's
return and steps, one trip of the decode loop, fetching, and the step itself. -/

namespace Sys2Proof.Machine

/-! ### Settling (R236) -/

@[simp] theorem settle_ok (s t : State) : settle s (.ok t) = .next t := rfl
@[simp] theorem settle_error (s : State) (r : FaultReason) : settle s (.error r) = .next (s.raise r) := rfl

/-- A settled step always answers a next state: the writes of its rule, or the raised fault alone. -/
theorem settle_cases (s : State) (x : Except FaultReason State) :
    (∃ t, x = .ok t ∧ settle s x = .next t) ∨ (∃ r, x = .error r ∧ settle s x = .next (s.raise r)) := by
  cases x with
  | ok t => exact .inl ⟨t, rfl, rfl⟩
  | error r => exact .inr ⟨r, rfl, rfl⟩

theorem settle_next {s t : State} {x : Except FaultReason State} (h : settle s x = .next t) :
    x = .ok t ∨ ∃ r, x = .error r ∧ t = s.raise r := by
  cases x with
  | ok u => exact .inl (congrArg _ (Host.Outcome.next.inj h))
  | error r => exact .inr ⟨r, rfl, (Host.Outcome.next.inj h).symm⟩

/-! ### The encoder's body (R192) -/

/-- The contract check answers the control state after the send, or HandlerContract (R172). -/
theorem noteSend_cases (d : DecState) (ch : Channel) :
    (d = .idle ∧ noteSend d ch = .ok .idle) ∨
    (∃ h, d = .inHandler h ∧ ch = h.ch ∧ h.sends = 0 ∧ noteSend d ch = .ok (.inHandler { h with sends := 1 })) ∨
    (∃ h, d = .inHandler h ∧ (ch ≠ h.ch ∨ 1 ≤ h.sends) ∧ noteSend d ch = .error .handlerContract) := by
  cases d with
  | idle => exact .inl ⟨rfl, rfl⟩
  | inHandler h =>
    by_cases hc : ch ≠ h.ch ∨ 1 ≤ h.sends
    · exact .inr (.inr ⟨h, rfl, hc, by simp only [noteSend, if_pos hc]⟩)
    · refine .inr (.inl ⟨h, rfl, ?_, ?_, ?_⟩)
      · simpa using fun hn => hc (.inl hn)
      · omega
      · simp only [noteSend, if_neg hc]; simp only [not_or, not_le] at hc; rw [show h.sends = 0 by omega]

/-- Outside a read-keypad handler a send keeps `last_keys` (R28). -/
theorem polledKeys_other {s : State} (h : s.keypadRuns = false) (bytes : List Byte) : s.polledKeys bytes = s.lastKeys := by
  simp [State.polledKeys, h]

/-- In a read-keypad handler a send takes the bitmask its buffer reports (R188). -/
theorem polledKeys_keypad {s : State} (h : s.keypadRuns = true) (b0 b1 : Byte) (p : List Byte) :
    s.polledKeys (b0 :: b1 :: p) = p.headD s.draw.keys := by
  cases p <;> simp [State.polledKeys, h]

theorem keypadRuns_handler {s : State} {h : HandlerRun} (hd : s.decState = .inHandler h) :
    s.keypadRuns = decide (handlerOf (tableOf s.config) h.id = some .readKeypad) := by simp [State.keypadRuns, hd]

/-- The entries of the listed commands stand in front, so no added entry changes a listed command's handler (R142, R171). -/
theorem handlerOf_listed {id : Byte} {d : Descriptor} (p : Config.Params) (h : lookup listedTable id = some d) :
    handlerOf (tableOf p) id = d.handler := by
  simp only [lookup] at h
  simp [handlerOf, lookup, tableOf, List.find?_append, h]

/-- What a successful send writes, and when it succeeds. -/
theorem encSend_ok {s t : State} {ch : Channel} {bytes : List Byte} {set40 : Bool} (h : encSend s ch bytes set40 = .ok t) :
    s.agent = .main ∧ Config.headerSize ≤ bytes.length ∧ bytes.length - Config.headerSize ≤ Config.payloadMax ∧
    ∃ d, noteSend s.decState ch = .ok d ∧
      t = (((s.setKeys (s.polledKeys bytes)).setControl d).put (.outb ch) (withChecksum (encoderBuffer bytes set40))).finish .none := by
  unfold encSend at h
  split at h
  · cases h
  · split at h
    · cases h
    · next ha hl =>
      refine ⟨by simpa using ha, by omega, by omega, ?_⟩
      split at h
      · cases h
      · next d hd => exact ⟨d, hd, (Except.ok.inj h).symm⟩

/-- The encoder raises one of its three faults, each on its own condition, in the order of R192. -/
theorem encSend_error {s : State} {ch : Channel} {bytes : List Byte} {set40 : Bool} {r : FaultReason}
    (h : encSend s ch bytes set40 = .error r) :
    (s.agent ≠ .main ∧ r = .encoderOwnership) ∨
    (s.agent = .main ∧ (bytes.length < Config.headerSize ∨ Config.payloadMax < bytes.length - Config.headerSize) ∧
      r = .encoderSize) ∨
    (s.agent = .main ∧ noteSend s.decState ch = .error r ∧ r = .handlerContract) := by
  unfold encSend at h
  split at h
  · next ha => exact .inl ⟨ha, (Except.error.inj h).symm⟩
  · next ha =>
    rw [not_not] at ha
    split at h
    · next hl => exact .inr (.inl ⟨ha, hl, (Except.error.inj h).symm⟩)
    · split at h
      · next r' hd =>
        obtain rfl := Except.error.inj h
        rcases noteSend_cases s.decState ch with ⟨_, h'⟩ | ⟨_, _, _, _, h'⟩ | ⟨_, _, _, h'⟩ <;> rw [h'] at hd <;> cases hd
        exact .inr (.inr ⟨ha, h', rfl⟩)
      · cases h

/-! ### The handler's return and steps (R172, R174) -/

/-- What a return writes, and when it succeeds (R174). -/
theorem handlerReturn_ok {s t : State} (h : handlerReturn s = .ok t) :
    s.agent = .main ∧ ∃ run, s.decState = .inHandler run ∧ run.sends = 1 ∧
      t = (((s.setStaging run.ch (s.staging run.ch).clear).count .dispatchedCompleted).setControl .idle).finish
        .commandProcessed := by
  unfold handlerReturn at h
  split at h
  · cases h
  · next ha =>
    split at h
    · cases h
    · next run hd =>
      split at h
      · cases h
      · next hs => exact ⟨by simpa using ha, run, hd, by simpa using hs, (Except.ok.inj h).symm⟩

/-- A handler step that succeeds is the response of its command's running handler, or its return. -/
theorem handlerStep_ok {id : Byte} {respond : Channel → State → Except FaultReason State} {s t : State}
    (h : handlerStep id respond s = .ok t) :
    s.agent = .main ∧ ∃ run, s.decState = .inHandler run ∧ run.id = id ∧
      ((run.sends = 0 ∧ respond run.ch s = .ok t) ∨ (run.sends ≠ 0 ∧ handlerReturn s = .ok t)) := by
  unfold handlerStep at h
  split at h
  · cases h
  · next ha =>
    split at h
    · cases h
    · next run hd =>
      split at h
      · cases h
      · next hid =>
        refine ⟨by simpa using ha, run, hd, by simpa using hid, ?_⟩
        split at h
        · next hs => exact .inl ⟨hs, h⟩
        · next hs => exact .inr ⟨hs, h⟩

/-! ### One trip of the decode loop (R144) -/

/-- A trip that goes round again rejects the front byte with one event and one of three counters (R148, R149, R151). -/
theorem attempt_again {ch : Channel} {s t : State} (h : attempt ch s = .again t) :
    Config.minFrame ≤ (s.staging ch).fill ∧
    ∃ n e, (n = .badId ∨ n = .badSize ∨ n = .badChecksum) ∧ t = (s.count .framesAttempted).reject ch n e := by
  unfold attempt at h
  split at h
  · cases h
  · next hf =>
    refine ⟨by omega, ?_⟩
    dsimp only at h
    split at h <;> cases h
    · exact ⟨_, _, .inl rfl, rfl⟩
    · exact ⟨_, _, .inr (.inl rfl), rfl⟩
    · exact ⟨_, _, .inr (.inr rfl), rfl⟩

/-- A trip that returns does so for want of bytes (R145, R150) or by dispatching a valid frame (R152). -/
theorem attempt_done {ch : Channel} {s t : State} (h : attempt ch s = .done t) :
    ((s.staging ch).fill < Config.minFrame ∧ t = s.finish .noCommand) ∨
    (Config.minFrame ≤ (s.staging ch).fill ∧
      ((∃ id req, judge (tableOf s.config) (s.staged ch) = .incomplete id req ∧
          t = (((s.count .framesAttempted).count .incomplete).record
            (.incompleteFrame ch id (s.staging ch).fill req)).finish .noCommand) ∨
       (∃ n, judge (tableOf s.config) (s.staged ch) = .valid n ∧
          t = ((s.count .framesAttempted).dispatch ch (s.staged ch) n).finish .dispatched))) := by
  unfold attempt at h
  split at h
  · next hf => cases h; exact .inl ⟨hf, rfl⟩
  · next hf =>
    refine .inr ⟨by omega, ?_⟩
    dsimp only at h
    split at h <;> cases h
    · next id req hj => exact .inl ⟨id, req, hj, rfl⟩
    · next n hj => exact .inr ⟨n, hj, rfl⟩

/-- Induction over a pass: what holds before it, is kept by every rejected attempt, and leads to the goal at each way to return. -/
theorem passLoop_induction {ch : Channel} (P Q : State → Prop)
    (again : ∀ s t, P s → attempt ch s = .again t → P t)
    (done : ∀ s t, P s → attempt ch s = .done t → Q t)
    (stop : ∀ s, P s → Q (s.finish .noCommand)) :
    ∀ fuel s, P s → Q (passLoop ch fuel s) := by
  intro fuel
  induction fuel with
  | zero => intro s h; exact stop s h
  | succ k ih =>
    intro s h
    unfold passLoop
    split
    · next t ht => exact done s t h ht
    · next t ht => exact ih t (again s t h ht)

/-- A pass runs out of neither bytes nor trips: one trip per staged byte is enough, and more change nothing (R154). -/
theorem passLoop_fuel (ch : Channel) : ∀ fuel s, (s.staging ch).fill ≤ fuel → passLoop ch (fuel + 1) s = passLoop ch fuel s := by
  intro fuel
  induction fuel with
  | zero =>
    intro s h
    have hf : (s.staging ch).fill < Config.minFrame := by simp only [Config.minFrame]; omega
    simp [passLoop, attempt, hf]
  | succ k ih =>
    intro s h
    rw [passLoop]
    conv_rhs => rw [passLoop]
    split
    · rfl
    · next t ht =>
      obtain ⟨hf, n, e, -, rfl⟩ := attempt_again ht
      simp only [Config.minFrame] at hf
      exact ih _ (by simp [State.reject, State.resync]; omega)

/-- What a rejected attempt leaves staged: all but the first byte (R147). -/
theorem reject_staged (s : State) (ch : Channel) (n : StatName) (e : Event) (h : (s.staging ch).fill ≤ Config.stageCap) :
    (s.reject ch n e).staged ch = (s.staged ch).drop 1 := by
  simp [State.reject, State.resync, State.staged, Staging.resync_bytes _ _ h]

@[simp] theorem reject_fill (s : State) (ch : Channel) (n : StatName) (e : Event) :
    ((s.reject ch n e).staging ch).fill = (s.staging ch).fill - 1 := by simp [State.reject, State.resync]

@[simp] theorem reject_config (s : State) (ch : Channel) (n : StatName) (e : Event) :
    (s.reject ch n e).config = s.config := by simp [State.reject]

/-! ### Fetching and the step (R9, R235, R237) -/

/-- What a step that answers a next state did. -/
theorem step_next {s t : State} (h : step s = .next t) :
    (fetch s = .idle ∧ t = s) ∨ (∃ rest, fetch s = .reset rest ∧ t = s.resetEvent rest) ∨
    (∃ i u, fetch s = .run i u ∧ exec i u = .next t) ∨ (∃ u, fetch s = .external u ∧ execTableHandler u = .next t) := by
  unfold step at h
  split at h
  · next hf => exact .inl ⟨hf, (Host.Outcome.next.inj h).symm⟩
  · next rest hf => exact .inr (.inl ⟨rest, hf, (Host.Outcome.next.inj h).symm⟩)
  · cases h
  · cases h
  · next i u hf => exact .inr (.inr (.inl ⟨i, u, hf, h⟩))
  · next u hf => exact .inr (.inr (.inr ⟨u, hf, h⟩))

/-- A fetched instruction comes from the front of the schedule, in a state that is not faulted (R9, R237). -/
theorem fetch_run {s u : State} {i : Instr} (h : fetch s = .run i u) :
    s.faulted = none ∧ tableWf (tableOf s.config) = true ∧
    ((∃ ag r rest, s.pending = .port ag r :: rest ∧ decodeRequest r = .ok i ∧ u = s.issue ag rest) ∨
     (∃ d rest run extra, s.pending = .handler d :: rest ∧ s.decState = .inHandler run ∧
        decodeCommand run.frame = .ok (i, extra) ∧ u = s.issueHandler d rest)) := by
  unfold fetch at h
  split at h
  · cases h
  · next ht =>
    split at h
    · cases h
    · cases h
    · next ag r rest hp =>
      split at h
      · cases h
      · next hf =>
        unfold fetchRequest at h
        split at h
        · next j hj => cases h; exact ⟨hf, by simpa using ht, .inl ⟨ag, r, rest, hp, hj, rfl⟩⟩
        · cases h
    · next d rest hp =>
      split at h
      · cases h
      · next hf =>
        unfold fetchHandler at h
        split at h
        · cases h
        · next run hd =>
          split at h
          · next j extra hj => cases h; exact ⟨hf, by simpa using ht, .inr ⟨d, rest, run, extra, hp, hd, hj, rfl⟩⟩
          · cases h
          · cases h

/-- A step of a handler outside the listed commands comes from the front of the schedule, in a state that is not faulted. -/
theorem fetch_external {s u : State} (h : fetch s = .external u) :
    s.faulted = none ∧ ∃ d rest, s.pending = .handler d :: rest ∧ u = s.issueHandler d rest := by
  unfold fetch at h
  split at h
  · cases h
  · split at h
    · cases h
    · cases h
    · split at h
      · cases h
      · unfold fetchRequest at h; split at h <;> cases h
    · next d rest hp =>
      split at h
      · cases h
      · next hf =>
        unfold fetchHandler at h
        split at h
        · cases h; exact ⟨hf, d, rest, hp, rfl⟩
        · split at h
          · cases h
          · cases h; exact ⟨hf, d, rest, hp, rfl⟩
          · cases h

end Sys2Proof.Machine
end

