-- ==== Sys2Proof/Laws/Exec.lean ====
section
/-! SUPPORT. Everything an instruction can do when it answers a next state, in one inversion lemma: a claim over all instructions is
a case analysis of `Effect`. -/

namespace Sys2Proof.Machine

/-- The states that instruction `i` can lead to from `s`. -/
inductive Effect (i : Instr) (s : State) : State → Prop where
  | raised (r : FaultReason) : Effect i s (s.raise r)
  | result (x : Result) : Effect i s (s.finish x)
  | init (r : RingId) : i = .ringInit r → s.running = false → Effect i s ((s.setRing r (s.ring r).init).finish .none)
  | put (r : RingId) (bytes : List Byte) : i = .ringPut r bytes → s.agent = producer r →
      Effect i s ((s.put r bytes).finish .none)
  | get (r : RingId) (max : Nat) : i = .ringGet r max → s.agent = consumer r → (isInbound r && s.running) = false →
      Effect i s ((s.consume r max).finish (.got (s.front r max).length (s.front r max)))
  | crcInit : i = .crcInit → Effect i s ((s.setCrc 0xFFFF#16 true).finish .none)
  | crcStep (b : Byte) : i = .crcStep b → s.crcValid = true →
      Effect i s ((s.setCrc (Machine.crcStep s.crcAcc b) s.crcValid).finish .none)
  | fill (ch : Channel) (space : Nat) : i = .decFill ch → s.running = false → space = Config.stageCap - (s.staging ch).fill →
      Effect i s (((s.consume (.inb ch) space).setStaging ch ((s.staging ch).append (s.front (.inb ch) space))).finish
        (.count (s.front (.inb ch) space).length))
  | pass (ch : Channel) : i = .decPass ch → s.running = false → Effect i s (passLoop ch (s.staging ch).fill s)
  | returns (t : State) : (∀ ch, i ≠ .decPass ch) → handlerReturn s = .ok t → Effect i s t
  | sends (t : State) (ch : Channel) (bytes : List Byte) (set40 : Bool) : (∀ c, i ≠ .decPass c) →
      encSend s ch bytes set40 = .ok t → Effect i s t
  | start (ch : Channel) (out : List Byte) : i = .txStart ch → s.agent = .tx ch → (s.latch ch).busy = false →
      out = s.front (.outb ch) s.config.txChunk → 0 < out.length →
      Effect i s ((((s.consume (.outb ch) s.config.txChunk).setLatch ch ⟨true, out⟩).send ch out).finish (.count out.length))
  | startEmpty (ch : Channel) : i = .txStart ch → s.front (.outb ch) s.config.txChunk = [] →
      Effect i s ((s.consume (.outb ch) s.config.txChunk).finish (.count 0))
  | done (ch : Channel) : i = .txDone ch → s.agent = .tx ch → Effect i s ((s.setLatch ch ⟨false, []⟩).finish .none)

theorem settle_effect {i : Instr} {s t : State} {x : Except FaultReason State} (h : settle s x = .next t)
    (hok : ∀ u, x = .ok u → Effect i s u) : Effect i s t := by
  rcases settle_next h with h | ⟨r, -, rfl⟩
  · exact hok t h
  · exact .raised r

/-- A handler step whose response is one send. -/
theorem handlerStep_effect {i : Instr} {s t : State} {id : Byte} {respond : Channel → State → Except FaultReason State}
    {bytes : List Byte} {set40 : Bool} (hi : ∀ ch, i ≠ .decPass ch) (hr : ∀ ch, respond ch s = encSend s ch bytes set40)
    (h : settle s (handlerStep id respond s) = .next t) : Effect i s t :=
  settle_effect h fun u hu => by
    obtain ⟨-, run, -, -, ⟨-, hu⟩ | ⟨-, hu⟩⟩ := handlerStep_ok hu
    · rw [hr] at hu; exact .sends _ _ _ _ hi hu
    · exact .returns _ hi hu

/-- What an instruction that answers a next state did. -/
theorem exec_effect {i : Instr} {s t : State} (h : exec i s = .next t) : Effect i s t := by
  cases i
  case ringInit r =>
    refine settle_effect h fun u hu => ?_
    split at hu
    · cases hu
    · split at hu
      · cases hu
      · next hr => exact Except.ok.inj hu ▸ .init r rfl (by simpa using hr)
  case ringPut r bytes =>
    refine settle_effect h fun u hu => ?_
    split at hu
    · cases hu
    · next ha => exact Except.ok.inj hu ▸ .put r bytes rfl (by simpa using ha)
  case ringGet r max =>
    refine settle_effect h fun u hu => ?_
    split at hu
    · cases hu
    · next ha =>
      split at hu
      · cases hu
      · next hr => cases hu; exact .get r max rfl (by simpa using ha) (by simpa using hr)
  case ringUsed r => exact settle_effect (by simpa only [exec, execRingUsed] using h) fun u hu => by cases hu; exact .result _
  case crcInit =>
    refine settle_effect (by simpa only [exec, Machine.execCrcInit] using h) fun u hu => ?_
    split at hu
    · cases hu
    · exact Except.ok.inj hu ▸ .crcInit rfl
  case crcStep b =>
    refine settle_effect h fun u hu => ?_
    split at hu
    · cases hu
    · split at hu
      · cases hu
      · next hv => cases hu; exact .crcStep b rfl (by simpa using hv)
  case crcRead =>
    refine settle_effect h fun u hu => ?_
    split at hu
    · cases hu
    · split at hu <;> cases hu
      exact .result _
  case decFill ch =>
    refine settle_effect h fun u hu => ?_
    split at hu
    · cases hu
    · split at hu
      · cases hu
      · next hr => cases hu; exact .fill ch _ rfl (by simpa using hr) rfl
  case decPass ch =>
    refine settle_effect h fun u hu => ?_
    split at hu
    · cases hu
    · split at hu
      · cases hu
      · next hr => cases hu; exact .pass ch rfl (by simpa using hr)
  case hndRet status => exact settle_effect h fun u hu => .returns _ (by simp) hu
  case encNorm ch bytes => exact settle_effect h fun u hu => .sends _ _ _ _ (by simp) hu
  case encDev ch bytes => exact settle_effect h fun u hu => .sends _ _ _ _ (by simp) hu
  case txStart ch =>
    refine settle_effect h fun u hu => ?_
    split at hu
    · cases hu
    · next ha =>
      split at hu
      · cases hu
      · next hb =>
        dsimp only at hu
        by_cases hl : 0 < (s.front (.outb ch) s.config.txChunk).length
        · rw [if_pos hl] at hu; cases hu; exact .start ch _ rfl (by simpa using ha) (by simpa using hb) rfl hl
        · rw [if_neg hl] at hu; cases hu
          have he : s.front (.outb ch) s.config.txChunk = [] := by rw [← List.length_eq_zero_iff]; omega
          rw [he]; exact .startEmpty ch rfl he
  case txDone ch =>
    refine settle_effect h fun u hu => ?_
    split at hu
    · cases hu
    · next ha => split at hu <;> cases hu; exact .done ch rfl (by simpa using ha)
  case statRead idx =>
    simp only [exec, execStatRead] at h
    split at h <;> cases h
    exact .result _
  all_goals exact handlerStep_effect (by simp) (fun _ => rfl) h

/-- What a step of a handler outside the listed commands did: it raised a fault, sent, or returned. -/
theorem execTableHandler_next {s t : State} (h : execTableHandler s = .next t) :
    (∃ r, t = s.raise r) ∨ handlerReturn s = .ok t ∨ ∃ ch bytes set40, encSend s ch bytes set40 = .ok t := by
  unfold execTableHandler at h
  split at h <;> rcases settle_next h with h | ⟨r, -, rfl⟩
  · obtain ⟨-, run, -, -, ⟨-, hu⟩ | ⟨-, hu⟩⟩ := handlerStep_ok h
    · exact .inr (.inr ⟨_, _, _, hu⟩)
    · exact .inr (.inl hu)
  · exact .inl ⟨r, rfl⟩
  · obtain ⟨-, run, -, -, ⟨-, hu⟩ | ⟨-, hu⟩⟩ := handlerStep_ok h
    · unfold tableResponse at hu
      generalize handlerOf (tableOf s.config) _ = handler at hu
      rcases handler with - | - | - | - <;> exact .inr (.inr ⟨_, _, _, hu⟩)
    · exact .inr (.inl hu)
  · exact .inl ⟨r, rfl⟩

end Sys2Proof.Machine
end

