-- ==== Sys2Proof/Laws/Rings.lean ====
section
/-! SUPPORT. The ring operations: what a put and a get do to the bytes a ring holds, and what their state operations do to the rest. -/

namespace Sys2Proof.Machine

theorem Ring.head_lt (x : Ring) : x.head.val < 129 := x.head.isLt
theorem Ring.tail_lt (x : Ring) : x.tail.val < 129 := x.tail.isLt

theorem Ring.peek_getElem (sp : Space) (x : Ring) (n i : Nat) (h : i < (x.peek sp n).length) :
    (x.peek sp n)[i] = x.store.value sp (x.cell i) := by simp [Ring.peek]

theorem Ring.contents_getElem (sp : Space) (x : Ring) (i : Nat) (h : i < (x.contents sp).length) :
    (x.contents sp)[i] = x.store.value sp (x.cell i) := Ring.peek_getElem ..

/-! ### Puts (R101) -/

theorem Ring.overwrite_used (x : Ring) (b : List Byte) : (x.overwrite b).used = 128 := by simp [Ring.used, Ring.overwrite]

theorem Ring.append_tail_val (x : Ring) (b : List Byte) : (x.append b).tail.val = (x.tail.val + b.length) % 129 := rfl

theorem Ring.append_head_val (x : Ring) (b : List Byte) : (x.append b).head.val =
    if x.free < b.length then (x.tail.val + b.length + 1) % 129 else x.head.val := by
  unfold Ring.append
  by_cases h : x.free < b.length
  · simp only [if_pos h, Ring.tailAfter, Fin.ofNat, Config.storeSize]; omega
  · simp only [if_neg h]

theorem Ring.append_used (x : Ring) (b : List Byte) (h : b.length < 128) :
    (x.append b).used = min 128 (x.used + b.length) := by
  have := x.head_lt; have := x.tail_lt
  have hh := x.append_head_val b
  have hf : x.free = 128 - x.used := rfl
  unfold Ring.used at *
  rw [Ring.append_tail_val]
  simp only [Config.storeSize] at *
  by_cases hc : x.free < b.length
  · rw [if_pos hc] at hh; rw [hh]; omega
  · rw [if_neg hc] at hh; rw [hh]; omega

/-- The bytes of an append start where the oldest surviving byte was, or would have been, counted. -/
theorem Ring.append_cell (x : Ring) (b : List Byte) (i : Nat) :
    (x.append b).cell i = x.cell (x.used + b.length - min 128 (x.used + b.length) + i) := by
  have := x.head_lt; have := x.tail_lt
  have hh := x.append_head_val b
  have hf : x.free = 128 - x.used := rfl
  unfold Ring.cell
  simp only [Ring.used, Config.storeSize] at *
  by_cases hc : x.free < b.length
  · rw [if_pos hc] at hh; rw [hh]; omega
  · rw [if_neg hc] at hh; rw [hh]; omega

/-- An append stores byte `j` of the old contents followed by the new bytes in cell `head + j`, where `j` survives. -/
theorem Ring.append_value (sp : Space) (x : Ring) (b : List Byte) (hl : b.length < 128) (j : Nat)
    (hj : j < (x.contents sp ++ b).length) (hs : x.used + b.length - min 128 (x.used + b.length) ≤ j) :
    (x.append b).store.value sp (x.cell j) = (x.contents sp ++ b)[j] := by
  have := x.head_lt; have := x.tail_lt
  simp only [List.length_append, Ring.contents_length] at hj
  by_cases hju : j < x.used
  · rw [List.getElem_append_left (by simpa using hju)]
    simp only [Ring.contents_getElem, Cells.value, Ring.append]
    rw [Cells.read_writeFrom_other]
    intro k hk
    simp only [Ring.cell, Ring.used, Config.storeSize] at *
    omega
  · rw [List.getElem_append_right (by simp; omega)]
    have hc : x.cell j = (x.tail.val + (j - x.used)) % 129 := by
      simp only [Ring.cell, Ring.used, Config.storeSize] at *; omega
    have := Cells.read_writeFrom 129 b x.store x.tail.val (j - x.used) (by omega) (by omega)
    simp [Cells.value, Ring.append, hc, this]

theorem Ring.overwrite_value (sp : Space) (x : Ring) (b : List Byte) (h : 128 ≤ b.length) (i : Nat) (hi : i < 128) :
    (x.overwrite b).store.value sp ((x.overwrite b).cell i) = b[b.length - 128 + i] := by
  have hl : (lastBytes Config.ringCapacity b).length = 128 := by
    simp only [lastBytes, List.length_drop, Config.ringCapacity]; omega
  have hr := Cells.read_writeFrom Config.storeSize (lastBytes Config.ringCapacity b) x.store 0 i
    (by rw [hl]; exact Nat.le_succ 128) (by rw [hl]; exact hi)
  simp only [Ring.cell, Ring.overwrite, Cells.value, Fin.val_zero, hr, Option.getD_some]
  simp only [lastBytes, List.getElem_drop, Config.ringCapacity]

theorem Ring.put_used (x : Ring) (b : List Byte) : (x.put b).used = min 128 (x.used + b.length) := by
  unfold Ring.put
  by_cases h : Config.ringCapacity ≤ b.length
  · rw [if_pos h, Ring.overwrite_used]; simp only [Config.ringCapacity] at h; omega
  · rw [if_neg h, Ring.append_used _ _ (by simp only [Config.ringCapacity] at h; omega)]

/-- A put keeps the newest `C` of the bytes held and put, in order (R101). -/
theorem Ring.put_contents (sp : Space) (x : Ring) (b : List Byte) :
    (x.put b).contents sp = lastBytes (min 128 (x.used + b.length)) (x.contents sp ++ b) := by
  have hu := x.used_le
  simp only [Config.ringCapacity] at hu
  apply List.ext_getElem
  · simp [Ring.put_used, lastBytes]; omega
  · intro i h1 h2
    simp only [Ring.contents_length, Ring.put_used] at h1
    rw [Ring.contents_getElem]
    by_cases h : Config.ringCapacity ≤ b.length
    · simp only [Ring.put, if_pos h]
      simp only [Config.ringCapacity] at h
      rw [Ring.overwrite_value _ _ _ h _ (by omega)]
      simp only [lastBytes, List.getElem_drop, List.length_append, Ring.contents_length]
      rw [List.getElem_append_right (by simp; omega)]
      congr 1; simp; omega
    · simp only [Ring.put, if_neg h]
      simp only [Config.ringCapacity, not_le] at h
      rw [Ring.append_cell, Ring.append_value _ _ _ h _ (by simp; omega) (by omega)]
      simp only [lastBytes, List.getElem_drop, List.length_append, Ring.contents_length]

theorem put_ring (s : State) (r q : RingId) (b : List Byte) :
    (s.put r b).ring q = if q = r then (s.ring r).put b else s.ring q := by
  unfold State.put; dsimp only; split <;> simp [setRing_ring]

theorem put_events (s : State) (r : RingId) (b : List Byte) : (s.put r b).events = s.events ++
    (if 128 < (s.ring r).used + b.length then [.ringOverrun r ((s.ring r).used + b.length - 128)] else []) := by
  have hd : (s.ring r).dropped b.length = (s.ring r).used + b.length - 128 := rfl
  unfold State.put; dsimp only; rw [hd]; split
  · rw [if_pos (by omega)]; simp
  · rw [if_neg (by omega)]; simp

theorem put_contents (s : State) (r : RingId) (b : List Byte) :
    (s.put r b).contents r = lastBytes (min 128 ((s.ring r).used + b.length)) (s.contents r ++ b) := by
  rw [State.contents, put_ring, if_pos rfl, Ring.put_contents]; rfl

theorem Ring.put_cells (x : Ring) (b : List Byte) (c : Nat)
    (h : if b.length < 128 then ∀ k, k < b.length → c ≠ (x.tail.val + k) % 129 else 128 ≤ c) :
    (x.put b).store.read c = x.store.read c := by
  unfold Ring.put
  by_cases hb : b.length < 128
  · rw [if_pos hb] at h
    rw [if_neg (by simp only [Config.ringCapacity]; omega)]
    exact Cells.read_writeFrom_other _ _ _ _ _ (fun k hk => Ne.symm (h k hk))
  · rw [if_neg hb] at h
    have hb' : Config.ringCapacity ≤ b.length := Nat.le_of_not_lt hb
    rw [if_pos hb', Ring.overwrite]
    dsimp only
    rw [Cells.read_writeFrom_other]
    intro k hk
    simp only [lastBytes, List.length_drop, Config.ringCapacity, Config.storeSize] at hk ⊢; omega

/-- A put does what R101 and R102 say, whatever record of the step follows it. -/
theorem put_putsInto (s : State) (r : RingId) (b : List Byte) : PutsInto r b s (s.put r b) := by
  have hr : (s.put r b).ring r = (s.ring r).put b := by simp [put_ring]
  refine ⟨put_contents s r b, ?_, ?_, put_events s r b, fun q hq => by simp [put_ring, hq]⟩ <;> intro hl
  · rw [hr]
    refine ⟨?_, ?_, fun c hc => Ring.put_cells _ _ _ (by rwa [if_neg (by omega)])⟩
    · have hl' : Config.ringCapacity ≤ b.length := hl
      simp only [Ring.put, if_pos hl', Ring.overwrite, Fin.val_zero]
    · have hl' : Config.ringCapacity ≤ b.length := hl
      simp only [Ring.put, if_pos hl', Ring.overwrite, Fin.ofNat, Config.ringCapacity, Config.storeSize, Nat.reduceMod]
  · rw [hr]
    refine ⟨?_, ?_, fun c hc => Ring.put_cells _ _ _ (by rwa [if_pos hl])⟩ <;>
      rw [Ring.put, if_neg (by simp only [Config.ringCapacity]; omega)]
    · exact Ring.append_tail_val _ _
    · exact Ring.append_head_val _ _

/-! ### Gets (R104) -/

theorem Ring.advance_used (x : Ring) (n : Nat) (h : n ≤ x.used) : (x.advance n).used = x.used - n := by
  have := x.head_lt; have := x.tail_lt
  simp only [Ring.used, Ring.advance, Fin.ofNat, Config.storeSize] at *; omega

/-- A get removes the bytes it returns from the front (R104). -/
theorem Ring.advance_contents (sp : Space) (x : Ring) (n : Nat) (h : n ≤ x.used) :
    (x.advance n).contents sp = (x.contents sp).drop n := by
  have := x.head_lt; have := x.tail_lt
  apply List.ext_getElem
  · simp [Ring.advance_used _ _ h]
  · intro i h1 h2
    simp only [Ring.contents_length, Ring.advance_used _ _ h] at h1
    simp only [Ring.contents_getElem, List.getElem_drop]
    have : (x.advance n).cell i = x.cell (n + i) := by
      simp only [Ring.cell, Ring.used, Ring.advance, Fin.ofNat, Config.storeSize] at *; omega
    rw [this]; rfl

/-- A get returns the oldest bytes (R104). -/
theorem Ring.peek_take (sp : Space) (x : Ring) (n : Nat) (h : n ≤ x.used) : x.peek sp n = (x.contents sp).take n := by
  apply List.ext_getElem
  · simp; omega
  · intro i h1 h2; simp [Ring.contents, Ring.peek_getElem]

theorem front_take (s : State) (r : RingId) (m : Nat) : s.front r m = (s.contents r).take (min m (s.ring r).used) :=
  Ring.peek_take _ _ _ (min_le_right _ _)

theorem consume_contents (s : State) (r : RingId) (m : Nat) :
    (s.consume r m).contents r = (s.contents r).drop (min m (s.ring r).used) := by
  rw [State.contents, State.consume]
  simp only [setRing_ring, if_pos]
  exact Ring.advance_contents _ _ _ (min_le_right _ _)

end Sys2Proof.Machine
end

