-- ==== Sys2Proof/Laws/Frames.lean ====
section
/-! SUPPORT. Frames: their lengths and bytes, what the checks of the decoder say of one, and what a pass and a send do with it. -/

namespace Sys2Proof.Machine

theorem raise_eq_marked (s : State) (r : FaultReason) : s.raise r = marked s r := by
  unfold State.raise marked; split <;> simp_all

theorem running_of_idle {s : State} (h : s.decState = .idle) : s.running = false := by simp [State.running, h]
theorem running_of_handler {s : State} {h : HandlerRun} (hd : s.decState = .inHandler h) : s.running = true := by
  simp [State.running, hd]
theorem idle_of_not_running {s : State} (h : s.running = false) : s.decState = .idle := by
  unfold State.running at h; split at h <;> simp_all

/-! ### Bytes of a frame (R70, R75) -/

/-- Reading a checksum field gives the value it was written from (R11). -/
theorem le16_leBytes (v : Word) : le16 (v.setWidth 8) ((v >>> 8).setWidth 8) = v := by
  apply BitVec.eq_of_getLsbD_eq
  intro i hi
  unfold le16
  by_cases h8 : i < 8
  · simp [h8, hi]
  · have e : 8 + (i - 8) = i := by omega
    have h2 : i - 8 < 8 := by omega
    have h3 : i - 8 < 16 := by omega
    simp [h8, hi, h3, e, BitVec.getLsbD_eq_getElem]; intro; omega

@[simp] theorem headerAndPayload_length (id : Byte) (p : List Byte) : (headerAndPayload id p).length = p.length + 2 := by
  simp [headerAndPayload]

@[simp] theorem withChecksum_length (b : List Byte) : (withChecksum b).length = b.length + 2 := by simp [withChecksum, leBytes]

@[simp] theorem frameOf_length (id : Byte) (p : List Byte) : (frameOf id p).length = p.length + 4 := by simp [frameOf]

@[simp] theorem respOf_length (id : Byte) (p : List Byte) : (respOf id p).length = p.length + 4 := by simp [respOf]

/-- The buffer the encoder makes of a header and payload is that of the frame constructors (R75, R192). -/
theorem withChecksum_encoderBuffer (b0 b1 : Byte) (p : List Byte) (set40 : Bool) :
    withChecksum (encoderBuffer (b0 :: b1 :: p) set40) = if set40 then respOf b0 p else frameOf b0 p := by
  cases set40 <;> simp [encoderBuffer, respOf, frameOf, headerAndPayload, Config.headerSize]

/-! ### The decoder's checks (R143, R148 to R151) -/

/-- A declared size is accepted between the minimum and the smaller of the maximum and 252 (R143). -/
theorem accepts_iff (d : Descriptor) (n : Nat) : accepts d n = true ↔ d.min ≤ n ∧ n ≤ d.max ∧ n ≤ 252 := by
  simp [accepts, effMax]

/-- The bytes a frame starts with. -/
theorem frameOf_bytes (id : Byte) (p rest : List Byte) (h : p.length ≤ 252) :
    byteAt (frameOf id p ++ rest) 0 = id ∧ (byteAt (frameOf id p ++ rest) 1).toNat = p.length ∧
    (frameOf id p ++ rest).take (Config.headerSize + p.length) = headerAndPayload id p := by
  refine ⟨by simp [byteAt, frameOf, withChecksum, headerAndPayload], ?_, ?_⟩
  · simp [byteAt, frameOf, withChecksum, headerAndPayload]; omega
  · have e : Config.headerSize + p.length = (headerAndPayload id p).length := by simp [Config.headerSize]; omega
    simp only [frameOf, withChecksum, List.append_assoc]
    rw [e]; simp

/-- The checksum field of a frame. -/
theorem frameOf_checksum (id : Byte) (p rest : List Byte) :
    byteAt (frameOf id p ++ rest) (2 + p.length) = (crc16 (headerAndPayload id p)).setWidth 8 ∧
    byteAt (frameOf id p ++ rest) (3 + p.length) = (crc16 (headerAndPayload id p) >>> 8).setWidth 8 := by
  constructor
  all_goals
    simp only [byteAt, frameOf, withChecksum, leBytes, List.append_assoc, List.getD_eq_getElem?_getD]
    rw [List.getElem?_append_right (by simp; omega)]
  · have e : 2 + p.length - (headerAndPayload id p).length = 0 := by simp; omega
    rw [e]; rfl
  · have e : 3 + p.length - (headerAndPayload id p).length = 1 := by simp; omega
    rw [e]; rfl

/-- A valid frame passes the checks, whatever follows it (R73). -/
theorem judge_frameOf {table : List Descriptor} {d : Descriptor} {id : Byte} {p : List Byte} (rest : List Byte)
    (hl : lookup table id = some d) (hmin : d.min ≤ p.length) (hmax : p.length ≤ d.max) (h : p.length ≤ 252) :
    judge table (frameOf id p ++ rest) = .valid p.length := by
  obtain ⟨h0, h1, ht⟩ := frameOf_bytes id p rest h
  obtain ⟨hlo, hhi⟩ := frameOf_checksum id p rest
  have hacc := (accepts_iff d p.length).2 ⟨hmin, hmax, h⟩
  have hlen : ¬ ((frameOf id p ++ rest).length < Config.minFrame + p.length) := by simp [Config.minFrame]; omega
  simp only [judge, h0, hl, h1, hacc, ht, hlo, hhi, hlen, le16_leBytes]
  simp

/-! ### A pass (R144) -/

/-- DEC.PASS in Idle is the decode loop. -/
theorem decPass_eq {s : State} {ch : Channel} (ha : s.agent = .main) (hd : s.decState = .idle) :
    exec (.decPass ch) s = .next (passLoop ch (s.staging ch).fill s) := by
  simp [exec, execDecPass, ha, running_of_idle hd]

/-- After a rejected attempt the pass goes on from the state it leaves. -/
theorem decPass_again {s u : State} {ch : Channel} (ha : s.agent = .main) (hd : s.decState = .idle)
    (hu : attempt ch s = .again u) : exec (.decPass ch) s = exec (.decPass ch) u := by
  obtain ⟨hf, n, e, -, rfl⟩ := attempt_again hu
  simp only [Config.minFrame] at hf
  obtain ⟨k, hk⟩ : ∃ k, (s.staging ch).fill = k + 1 := ⟨(s.staging ch).fill - 1, by omega⟩
  rw [decPass_eq ha hd, decPass_eq (by simpa [State.reject] using ha) (by simpa [State.reject] using hd), hk, passLoop, hu]
  simp [hk]

/-- Resync-by-one writes only the cells of the bytes that stay staged (R147). -/
theorem Staging.resync_cells (sp : Space) (x : Staging) (c : Nat) (h : x.fill ≤ Config.stageCap) (hc : x.fill - 1 ≤ c) :
    (x.resync sp).cells.read c = x.cells.read c := by
  unfold Staging.resync; dsimp only
  rw [Cells.read_writeFrom_other]
  intro k hk
  simp only [List.length_drop, Staging.bytes_length] at hk
  rw [Nat.mod_eq_of_lt (by omega)]; omega

/-! ### A send (R192) -/

/-- A send whose checks hold. -/
theorem encSend_eq {s : State} {ch : Channel} {bytes : List Byte} {set40 : Bool} {d : DecState} (ha : s.agent = .main)
    (hmin : 2 ≤ bytes.length) (hmax : bytes.length ≤ 254) (hd : noteSend s.decState ch = .ok d) :
    encSend s ch bytes set40 =
      .ok ((((s.setKeys (s.polledKeys bytes)).setControl d).put (.outb ch) (withChecksum (encoderBuffer bytes set40))).finish .none) := by
  unfold encSend
  rw [if_neg (by simpa using ha), if_neg (by simp only [Config.headerSize, Config.payloadMax]; omega), hd]

/-- `PutsInto` depends on the rings and the events alone. -/
theorem PutsInto.congr {r : RingId} {bytes : List Byte} {s s' t t' : State} (h : PutsInto r bytes s t)
    (hs : ∀ q, s'.ring q = s.ring q) (hse : s'.events = s.events) (ht : ∀ q, t'.ring q = t.ring q)
    (hte : t'.events = t.events) : PutsInto r bytes s' t' := by
  unfold PutsInto SameRingsBut State.contents at *
  simpa only [hs, hse, ht, hte] using h

/-- What the state after a send is (R192). -/
theorem send_putsInto (s : State) (ch : Channel) (frame : List Byte) (k : Byte) (d : DecState) :
    PutsInto (.outb ch) frame s ((((s.setKeys k).setControl d).put (.outb ch) frame).finish .none) :=
  (put_putsInto ((s.setKeys k).setControl d) (.outb ch) frame).congr (by simp) (by simp) (by simp) (by simp)

end Sys2Proof.Machine
end

