-- ==== Sys2Proof/Laws/PerInstr.lean ====
section
/-! SUPPORT. For every instruction, the byte its encoding is selected by: the code of its row in spec/opcode_table.json (R76, R80). -/

namespace Sys2Proof.Laws.SelectorByte

/-- The code of the instruction's row: `op` of a port operation (R80), the id of a command (R76). -/
def rowCode (i : Instr) : Byte :=
  match i with
  | .ringInit _ => 0x01#8
  | .ringPut _ _ => 0x02#8
  | .ringGet _ _ => 0x03#8
  | .ringUsed _ => 0x04#8
  | .crcInit => 0x10#8
  | .crcStep _ => 0x11#8
  | .crcRead => 0x12#8
  | .decFill _ => 0x20#8
  | .decPass _ => 0x21#8
  | .hndRet _ => 0x22#8
  | .encNorm _ _ => 0x30#8
  | .encDev _ _ => 0x31#8
  | .txStart _ => 0x40#8
  | .txDone _ => 0x41#8
  | .statRead _ => 0x50#8
  | .cmdPing _ => 0x00#8
  | .cmdWriteFlash _ => 0x02#8
  | .cmdReadFlash _ => 0x03#8
  | .cmdReset _ => 0x05#8
  | .cmdClearScreen _ => 0x06#8
  | .cmdSetCursorPosition _ => 0x0B#8
  | .cmdSetCursorStyle _ => 0x0C#8
  | .cmdSetContrast _ => 0x0D#8
  | .cmdSetBacklight _ => 0x0E#8
  | .cmdConfigureKeyReport _ => 0x17#8
  | .cmdReadKeypad _ => 0x18#8
  | .cmdSendDataToDisplay _ => 0x1F#8
  | .cmdConfigureGpio _ => 0x22#8

/-- The byte that selects the encoding is the code of the row. -/
def Statement (i : Instr) : Prop := selector (encode i) = some (rowCode i)

theorem ringInit (r : RingId) : Statement (.ringInit r) := rfl
theorem ringPut (r : RingId) (bytes : List Byte) : Statement (.ringPut r bytes) := rfl
theorem ringGet (r : RingId) (max : Nat) : Statement (.ringGet r max) := rfl
theorem ringUsed (r : RingId) : Statement (.ringUsed r) := rfl
theorem crcInit : Statement (.crcInit) := rfl
theorem crcStep (b : Byte) : Statement (.crcStep b) := rfl
theorem crcRead : Statement (.crcRead) := rfl
theorem decFill (ch : Channel) : Statement (.decFill ch) := rfl
theorem decPass (ch : Channel) : Statement (.decPass ch) := rfl
theorem hndRet (status : Byte) : Statement (.hndRet status) := rfl
theorem encNorm (ch : Channel) (bytes : List Byte) : Statement (.encNorm ch bytes) := rfl
theorem encDev (ch : Channel) (bytes : List Byte) : Statement (.encDev ch bytes) := rfl
theorem txStart (ch : Channel) : Statement (.txStart ch) := rfl
theorem txDone (ch : Channel) : Statement (.txDone ch) := rfl
theorem statRead (idx : BitVec 3) : Statement (.statRead idx) := rfl
theorem cmdPing (payload : List Byte) : Statement (.cmdPing payload) := rfl
theorem cmdWriteFlash (payload : List Byte) : Statement (.cmdWriteFlash payload) := rfl
theorem cmdReadFlash (payload : List Byte) : Statement (.cmdReadFlash payload) := rfl
theorem cmdReset (payload : List Byte) : Statement (.cmdReset payload) := rfl
theorem cmdClearScreen (payload : List Byte) : Statement (.cmdClearScreen payload) := rfl
theorem cmdSetCursorPosition (payload : List Byte) : Statement (.cmdSetCursorPosition payload) := rfl
theorem cmdSetCursorStyle (payload : List Byte) : Statement (.cmdSetCursorStyle payload) := rfl
theorem cmdSetContrast (payload : List Byte) : Statement (.cmdSetContrast payload) := rfl
theorem cmdSetBacklight (payload : List Byte) : Statement (.cmdSetBacklight payload) := rfl
theorem cmdConfigureKeyReport (payload : List Byte) : Statement (.cmdConfigureKeyReport payload) := rfl
theorem cmdReadKeypad (payload : List Byte) : Statement (.cmdReadKeypad payload) := rfl
theorem cmdSendDataToDisplay (payload : List Byte) : Statement (.cmdSendDataToDisplay payload) := rfl
theorem cmdConfigureGpio (payload : List Byte) : Statement (.cmdConfigureGpio payload) := rfl

end Sys2Proof.Laws.SelectorByte
end

