-- ==== Sys2Proof/Machine/Text.lean ====
section
/-! DEFINITION. The textual syntax of a program line, `<agent>: <MNEMONIC> <operands>` (R82). -/

namespace Sys2Proof.Machine

/-- A hex digit. -/
def hexDigit (n : Nat) : String := (["0", "1", "2", "3", "4", "5", "6", "7"] ++ ["8", "9", "A", "B", "C", "D", "E", "F"]).getD n "0"

/-- A byte in hex (R82). -/
def hexByte (b : Byte) : String := hexDigit (b.toNat / 16) ++ hexDigit (b.toNat % 16)

/-- A byte sequence, `[b0, b1, ...]` in hex (R82). -/
def bytesText (s : List Byte) : String := "[" ++ String.intercalate ", " (s.map hexByte) ++ "]"

/-- A ring: `IN0`, `OUT0`, `IN1` or `OUT1` (R82). -/
def ringText (r : RingId) : String :=
  match r with
  | .inb .ch0 => "IN0"
  | .outb .ch0 => "OUT0"
  | .inb .ch1 => "IN1"
  | .outb .ch1 => "OUT1"

/-- A channel, `0` or `1` (R82). -/
def channelText (ch : Channel) : String :=
  match ch with
  | .ch0 => "0"
  | .ch1 => "1"

/-- An agent (R9, R82). -/
def agentText (a : Agent) : String :=
  match a with
  | .main => "MAIN"
  | .rx ch => "RX(" ++ channelText ch ++ ")"
  | .tx ch => "TX(" ++ channelText ch ++ ")"

/-- The mnemonic of an instruction, as spec/opcode_table.json spells it. -/
def mnemonic (i : Instr) : String :=
  match i with
  | .ringInit _ => "RING.INIT"
  | .ringPut _ _ => "RING.PUT"
  | .ringGet _ _ => "RING.GET"
  | .ringUsed _ => "RING.USED"
  | .crcInit => "CRC.INIT"
  | .crcStep _ => "CRC.STEP"
  | .crcRead => "CRC.READ"
  | .decFill _ => "DEC.FILL"
  | .decPass _ => "DEC.PASS"
  | .hndRet _ => "HND.RET"
  | .encNorm _ _ => "ENC.NORM"
  | .encDev _ _ => "ENC.DEV"
  | .txStart _ => "TX.START"
  | .txDone _ => "TX.DONE"
  | .statRead _ => "STAT.READ"
  | .cmdPing _ => "CMD.ping"
  | .cmdWriteFlash _ => "CMD.write-flash"
  | .cmdReadFlash _ => "CMD.read-flash"
  | .cmdReset _ => "CMD.reset"
  | .cmdClearScreen _ => "CMD.clear-screen"
  | .cmdSetCursorPosition _ => "CMD.set-cursor-position"
  | .cmdSetCursorStyle _ => "CMD.set-cursor-style"
  | .cmdSetContrast _ => "CMD.set-contrast"
  | .cmdSetBacklight _ => "CMD.set-backlight"
  | .cmdConfigureKeyReport _ => "CMD.configure-key-report"
  | .cmdReadKeypad _ => "CMD.read-keypad"
  | .cmdSendDataToDisplay _ => "CMD.send-data-to-display"
  | .cmdConfigureGpio _ => "CMD.configure-gpio"

/-- The operands of an instruction, in the order of R80. -/
def operandTexts (i : Instr) : List String :=
  match i with
  | .ringInit r => [ringText r]
  | .ringPut r bytes => [ringText r, bytesText bytes]
  | .ringGet r max => [ringText r, toString max]
  | .ringUsed r => [ringText r]
  | .crcInit => []
  | .crcStep b => [hexByte b]
  | .crcRead => []
  | .decFill ch => [channelText ch]
  | .decPass ch => [channelText ch]
  | .hndRet status => [hexByte status]
  | .encNorm ch bytes => [channelText ch, bytesText bytes]
  | .encDev ch bytes => [channelText ch, bytesText bytes]
  | .txStart ch => [channelText ch]
  | .txDone ch => [channelText ch]
  | .statRead i => [toString i.toNat]
  | .cmdPing p => [bytesText p]
  | .cmdWriteFlash p => [bytesText p]
  | .cmdReadFlash p => [bytesText p]
  | .cmdReset p => [bytesText p]
  | .cmdClearScreen p => [bytesText p]
  | .cmdSetCursorPosition p => [bytesText p]
  | .cmdSetCursorStyle p => [bytesText p]
  | .cmdSetContrast p => [bytesText p]
  | .cmdSetBacklight p => [bytesText p]
  | .cmdConfigureKeyReport p => [bytesText p]
  | .cmdReadKeypad p => [bytesText p]
  | .cmdSendDataToDisplay p => [bytesText p]
  | .cmdConfigureGpio p => [bytesText p]

/-- A program line (R82). -/
def lineText (a : Agent) (i : Instr) : String :=
  match operandTexts i with
  | [] => agentText a ++ ": " ++ mnemonic i
  | ops => agentText a ++ ": " ++ mnemonic i ++ " " ++ String.intercalate ", " ops

end Sys2Proof.Machine
end

