-- ==== Sys2Proof/Tests/Slice0.lean ====
section
/-! SUPPORT. Tests. Expected results are those of spec/95_test_vectors.md (the vector is named) or are worked out by hand from the
rules; the witness theorems show, for each statement with hypotheses, states and operands that meet them. -/

namespace Sys2Proof.Tests

-- One test at a time: evaluated all at once, they ask for more threads than the check's memory limit allows.
set_option Elab.async false

open Sys2Proof Sys2Proof.Machine

/-! ### Helpers -/

/-- The state a step leads to. -/
def nextOf (o : Host.Outcome State Fault Refusal) : Option State :=
  match o with
  | .next s => some s
  | .fault _ => none
  | .refused _ => none

/-- What the state a step leads to shows. -/
def after {α : Type} (o : Host.Outcome State Fault Refusal) (f : State → α) : Option α := (nextOf o).map f

/-- Why a step is refused. -/
def refusalOf (o : Host.Outcome State Fault Refusal) : Option Refusal :=
  match o with
  | .next _ => none
  | .fault _ => none
  | .refused r => some r

/-- The fault that stops a step. -/
def faultOf (o : Host.Outcome State Fault Refusal) : Option Fault :=
  match o with
  | .next _ => none
  | .fault r => some r
  | .refused _ => none

/-- The reset state, with the agent that issues. -/
def issuedBy (a : Agent) : State := State.reset.issue a []

/-- The reset state with bytes staged on channel 0. -/
def stagedIn (bytes : List Byte) : State := State.reset.setStaging .ch0 (Staging.reset.append bytes)

/-- The reset state with a handler running on channel 0. -/
def handling (id : Byte) (sends : Nat) : State :=
  (stagedIn [id, 0x00#8, 0x00#8, 0x00#8]).setControl (.inHandler ⟨.ch0, id, [id, 0x00#8], 2, sends⟩)

/-- The reset state with bytes in a ring, the first at cell `start`. -/
def ringIn (r : RingId) (start : Nat) (bytes : List Byte) (a : Agent) : State :=
  (issuedBy a).setRing r ((⟨[], Fin.ofNat 129 start, Fin.ofNat 129 start⟩ : Ring).put bytes)

/-- The reset state with `TX_CHUNK` as given, `chunkLess1 + 1`. -/
def withChunk (chunkLess1 : Nat) (s : State) : State := { s with config := ⟨[], chunkLess1⟩ }

/-- A run of zero bytes. -/
def zeros (n : Nat) : List Byte := List.replicate n 0x00#8

/-! ### Well-formedness: one ill-formed term for each check -/

theorem test_wf_refuses :
    Instr.wf (.statRead 7#3) = false ∧ Instr.wf (.cmdPing (zeros 253)) = false ∧ Instr.wf (.cmdWriteFlash (zeros 15)) = false ∧
    Instr.wf (.cmdReadFlash (zeros 17)) = false ∧ Instr.wf (.cmdReset (zeros 2)) = false ∧
    Instr.wf (.cmdClearScreen (zeros 1)) = false ∧ Instr.wf (.cmdSetCursorPosition (zeros 1)) = false ∧
    Instr.wf (.cmdSetCursorStyle []) = false ∧ Instr.wf (.cmdSetContrast (zeros 2)) = false ∧
    Instr.wf (.cmdSetBacklight []) = false ∧ Instr.wf (.cmdConfigureKeyReport (zeros 3)) = false ∧
    Instr.wf (.cmdReadKeypad (zeros 1)) = false ∧ Instr.wf (.cmdSendDataToDisplay (zeros 2)) = false ∧
    Instr.wf (.cmdSendDataToDisplay (zeros 23)) = false ∧ Instr.wf (.cmdConfigureGpio (zeros 253)) = false := by decide +kernel

theorem test_wf_accepts :
    Instr.wf (.statRead 6#3) = true ∧ Instr.wf (.cmdPing (zeros 252)) = true ∧ Instr.wf (.cmdWriteFlash (zeros 16)) = true ∧
    Instr.wf (.cmdSendDataToDisplay (zeros 22)) = true := by decide +kernel

/-! ### Decoding: a word for every constructor, from R80, R81 and R70, R76 -/

theorem test_decode_ring :
    decodeRequest ⟨0x01#8, 0x03#8, 0, []⟩ = .ok (.ringInit (.outb .ch1)) ∧
    decodeRequest ⟨0x02#8, 0x00#8, 0, [0x0B#8, 0x02#8]⟩ = .ok (.ringPut (.inb .ch0) [0x0B#8, 0x02#8]) ∧
    decodeRequest ⟨0x03#8, 0x02#8, 10, []⟩ = .ok (.ringGet (.inb .ch1) 10) ∧
    decodeRequest ⟨0x04#8, 0x01#8, 0, []⟩ = .ok (.ringUsed (.outb .ch0)) := by decide

theorem test_decode_crc :
    decodeRequest ⟨0x10#8, 0x00#8, 0, []⟩ = .ok .crcInit ∧ decodeRequest ⟨0x11#8, 0x0F#8, 0, []⟩ = .ok (.crcStep 0x0F#8) ∧
    decodeRequest ⟨0x12#8, 0x00#8, 0, []⟩ = .ok .crcRead := by decide

theorem test_decode_decoder :
    decodeRequest ⟨0x20#8, 0x01#8, 0, []⟩ = .ok (.decFill .ch1) ∧ decodeRequest ⟨0x21#8, 0x00#8, 0, []⟩ = .ok (.decPass .ch0) ∧
    decodeRequest ⟨0x22#8, 0x7F#8, 0, []⟩ = .ok (.hndRet 0x7F#8) := by decide

theorem test_decode_encoder :
    decodeRequest ⟨0x30#8, 0x01#8, 0, [0x80#8, 0x00#8, 0x01#8]⟩ = .ok (.encNorm .ch1 [0x80#8, 0x00#8, 0x01#8]) ∧
    decodeRequest ⟨0x31#8, 0x00#8, 0, [0x00#8, 0x00#8]⟩ = .ok (.encDev .ch0 [0x00#8, 0x00#8]) := by decide

theorem test_decode_transport :
    decodeRequest ⟨0x40#8, 0x00#8, 0, []⟩ = .ok (.txStart .ch0) ∧ decodeRequest ⟨0x41#8, 0x01#8, 0, []⟩ = .ok (.txDone .ch1) ∧
    decodeRequest ⟨0x50#8, 0x06#8, 0, []⟩ = .ok (.statRead 6#3) := by decide

/-- The frames CMD-00 to CMD-0B of part 2.4. -/
theorem test_decode_commands_a :
    decodeCommand [0x00#8, 0x00#8, 0x47#8, 0x0F#8] = .ok (.cmdPing [], [0x47#8, 0x0F#8]) ∧
    decodeCommand [0x02#8, 0x10#8, 0x00#8, 0x01#8, 0x02#8, 0x03#8, 0x04#8, 0x05#8, 0x06#8, 0x07#8, 0x08#8, 0x09#8, 0x0A#8, 0x0B#8,
        0x0C#8, 0x0D#8, 0x0E#8, 0x0F#8, 0x23#8, 0x67#8] =
      .ok (.cmdWriteFlash [0x00#8, 0x01#8, 0x02#8, 0x03#8, 0x04#8, 0x05#8, 0x06#8, 0x07#8, 0x08#8, 0x09#8, 0x0A#8, 0x0B#8, 0x0C#8,
        0x0D#8, 0x0E#8, 0x0F#8], [0x23#8, 0x67#8]) ∧
    decodeCommand (0x03#8 :: 0x10#8 :: zeros 16 ++ [0x84#8, 0x23#8]) = .ok (.cmdReadFlash (zeros 16), [0x84#8, 0x23#8]) ∧
    decodeCommand [0x05#8, 0x03#8, 0x01#8, 0x02#8, 0x03#8, 0x19#8, 0x97#8] =
      .ok (.cmdReset [0x01#8, 0x02#8, 0x03#8], [0x19#8, 0x97#8]) ∧
    decodeCommand [0x06#8, 0x00#8, 0x97#8, 0x5B#8] = .ok (.cmdClearScreen [], [0x97#8, 0x5B#8]) ∧
    decodeCommand [0x0B#8, 0x02#8, 0x03#8, 0x01#8, 0x92#8, 0xB2#8] =
      .ok (.cmdSetCursorPosition [0x03#8, 0x01#8], [0x92#8, 0xB2#8]) := by decide +kernel

/-- The frames CMD-0C to CMD-22 of part 2.4. -/
theorem test_decode_commands_b :
    decodeCommand [0x0C#8, 0x01#8, 0x02#8, 0xA5#8, 0x59#8] = .ok (.cmdSetCursorStyle [0x02#8], [0xA5#8, 0x59#8]) ∧
    decodeCommand [0x0D#8, 0x01#8, 0x40#8, 0x6F#8, 0x62#8] = .ok (.cmdSetContrast [0x40#8], [0x6F#8, 0x62#8]) ∧
    decodeCommand [0x0E#8, 0x01#8, 0x64#8, 0x2D#8, 0xEA#8] = .ok (.cmdSetBacklight [0x64#8], [0x2D#8, 0xEA#8]) ∧
    decodeCommand [0x17#8, 0x02#8, 0x01#8, 0x00#8, 0x3E#8, 0xC4#8] =
      .ok (.cmdConfigureKeyReport [0x01#8, 0x00#8], [0x3E#8, 0xC4#8]) ∧
    decodeCommand [0x18#8, 0x00#8, 0x16#8, 0x54#8] = .ok (.cmdReadKeypad [], [0x16#8, 0x54#8]) ∧
    decodeCommand [0x1F#8, 0x05#8, 0x00#8, 0x00#8, 0x48#8, 0x49#8, 0x21#8, 0x8B#8, 0x55#8] =
      .ok (.cmdSendDataToDisplay [0x00#8, 0x00#8, 0x48#8, 0x49#8, 0x21#8], [0x8B#8, 0x55#8]) ∧
    decodeCommand [0x22#8, 0x02#8, 0x00#8, 0x01#8, 0xCA#8, 0xEE#8] =
      .ok (.cmdConfigureGpio [0x00#8, 0x01#8], [0xCA#8, 0xEE#8]) := by decide +kernel

/-- The request frames of part 2.4 are `FRAME` of their commands (R75). -/
theorem test_frames :
    frameOf 0x00#8 [0x12#8, 0x34#8] = [0x00#8, 0x02#8, 0x12#8, 0x34#8, 0xE0#8, 0x98#8] ∧
    frameOf 0x02#8 ((List.range 16).map (BitVec.ofNat 8)) =
      0x02#8 :: 0x10#8 :: (List.range 16).map (BitVec.ofNat 8) ++ [0x23#8, 0x67#8] ∧
    frameOf 0x03#8 (zeros 16) = 0x03#8 :: 0x10#8 :: zeros 16 ++ [0x84#8, 0x23#8] ∧
    frameOf 0x05#8 [0x01#8, 0x02#8, 0x03#8] = [0x05#8, 0x03#8, 0x01#8, 0x02#8, 0x03#8, 0x19#8, 0x97#8] ∧
    frameOf 0x06#8 [] = [0x06#8, 0x00#8, 0x97#8, 0x5B#8] ∧
    frameOf 0x22#8 [0x00#8, 0x01#8] = [0x22#8, 0x02#8, 0x00#8, 0x01#8, 0xCA#8, 0xEE#8] := by decide +kernel

/-- What the decoder refuses (part 2.7; R80, R81, R70, R77). -/
theorem test_decode_refuses :
    decodeRequest ⟨0x05#8, 0x00#8, 0, []⟩ = .error (.unknownOperation 0x05#8) ∧
    decodeRequest ⟨0x20#8, 0x02#8, 0, []⟩ = .error (.illFormedOperand 0x20#8 0x02#8) ∧
    decodeRequest ⟨0x01#8, 0x04#8, 0, []⟩ = .error (.illFormedOperand 0x01#8 0x04#8) ∧
    decodeRequest ⟨0x50#8, 0x07#8, 0, []⟩ = .error (.illFormedOperand 0x50#8 0x07#8) ∧
    decodeCommand [0x00#8] = .error .noHeader ∧ decodeCommand [0x0B#8, 0x02#8, 0x03#8] = .error .truncatedPayload ∧
    decodeCommand [0xFF#8, 0x00#8, 0x00#8, 0x00#8] = .error (.unknownCommand 0xFF#8) := by decide

/-- The table's words: a port operation's code, a command's first bytes, and the one code that two rows share (log entry 11). -/
theorem test_table_words :
    decodeTableWord 8 0x21 = some (.decPass .ch0) ∧ decodeTableWord 8 0x1F = some (.cmdSendDataToDisplay []) ∧
    decodeTableWord 24 0x001002 = some (.cmdWriteFlash (zeros 16)) ∧ decodeTableWord 8 0x22 = some (.hndRet 0x00#8) ∧
    decodeTableWord 8 0x7F = none := by decide +kernel

/-- The text of a program line (R82). -/
theorem test_text :
    lineText .main (.decPass .ch0) = "MAIN: DEC.PASS 0" ∧
    lineText (.rx .ch0) (.ringPut (.inb .ch0) [0x0B#8, 0xFF#8]) = "RX(0): RING.PUT IN0, [0B, FF]" ∧
    lineText .main (.ringGet (.inb .ch0) 10) = "MAIN: RING.GET IN0, 10" := by decide +kernel

/-- The pseudo-operations are the steps R83 gives for them. -/
theorem test_pseudo :
    rxPush .ch1 [0x18#8] = [.port (.rx .ch1) ⟨0x02#8, 0x02#8, 0, [0x18#8]⟩] ∧
    poll .ch0 = [.port .main ⟨0x20#8, 0x00#8, 0, []⟩, .port .main ⟨0x21#8, 0x00#8, 0, []⟩] ∧
    readOp .ch0 3 = [.port .main ⟨0x03#8, 0x00#8, 3, []⟩] ∧
    writeOp .ch0 [0x01#8] = [.port .main ⟨0x02#8, 0x01#8, 0, [0x01#8]⟩] := by decide

/-! ### One step of each instruction -/

/-- RING-1: (17, 40, 23). -/
theorem test_ring_init :
    after (exec (.ringInit (.inb .ch0)) (ringIn (.inb .ch0) 17 (zeros 23) .main)) (fun t => (t.in0.head.val, t.in0.tail.val, t.in0.used)) =
      some (0, 0, 0) := by decide +kernel

/-- RING-8: a full ring takes one more byte. -/
theorem test_ring_put_overrun :
    after (exec (.ringPut (.inb .ch0) [0xAA#8]) (ringIn (.inb .ch0) 0 (zeros 128) (.rx .ch0)))
      (fun t => (t.in0.head.val, t.in0.tail.val, t.in0.used, t.events)) = some (1, 0, 128, [.ringOverrun (.inb .ch0) 1]) := by
  decide +kernel

/-- RING-10: the write wraps after cell 128. -/
theorem test_ring_put_wraps :
    after (exec (.ringPut (.inb .ch0) (zeros 20)) (ringIn (.inb .ch0) 120 [] (.rx .ch0)))
      (fun t => (t.in0.head.val, t.in0.tail.val, t.in0.used, t.events)) = some (120, 11, 20, []) := by decide +kernel

/-- RING-14: a get of more than is held. -/
theorem test_ring_get :
    after (exec (.ringGet (.inb .ch0) 10) (ringIn (.inb .ch0) 5 [0x01#8, 0x02#8, 0x03#8, 0x04#8] .main))
      (fun t => (t.in0.head.val, t.in0.tail.val, t.result)) = some (9, 9, .got 4 [0x01#8, 0x02#8, 0x03#8, 0x04#8]) := by
  decide +kernel

/-- RING-16: any agent reads `used`, across the wrap. -/
theorem test_ring_used :
    after (exec (.ringUsed (.inb .ch0)) (ringIn (.inb .ch0) 120 (zeros 19) (.rx .ch1))) (fun t => t.result) = some (.count 19) := by
  decide +kernel

/-- The table spots and CRC-1 to CRC-8 of part 2.2. -/
theorem test_crc_values :
    crcTable 0x00#8 = 0x0000#16 ∧ crcTable 0x01#8 = 0x1189#16 ∧ crcTable 0x02#8 = 0x2312#16 ∧ crcTable 0x80#8 = 0x8408#16 ∧
    crcTable 0x87#8 = 0xF0B7#16 ∧ crcTable 0xFF#8 = 0x0F78#16 ∧ crc16 [] = 0x0000#16 ∧ crc16 [0x00#8] = 0xF078#16 ∧
    crc16 [0x01#8] = 0xE1F1#16 ∧ crc16 [0xFF#8] = 0xFF00#16 ∧ crc16 [0x00#8, 0x00#8] = 0x0F47#16 ∧
    crc16 [0x40#8, 0x00#8] = 0x4921#16 ∧ crc16 [0x01#8, 0x02#8, 0x03#8, 0x04#8] = 0x3991#16 ∧
    crc16 [0x31#8, 0x32#8, 0x33#8, 0x34#8, 0x35#8, 0x36#8, 0x37#8, 0x38#8, 0x39#8] = 0x906E#16 := by decide +kernel

/-- CRC-10 and CRC-17. -/
theorem test_crc_init :
    after (exec .crcInit State.reset) (fun t => (t.crcAcc, t.crcValid)) = some (0xFFFF#16, true) ∧
    after (exec .crcInit (issuedBy (.rx .ch0))) (fun t => (t.faulted, t.crcValid)) = some (some .crcOwnership, false) := by decide

/-- CRC-12 and CRC-16. -/
theorem test_crc_step :
    after (exec (.crcStep 0x00#8) (State.reset.setCrc 0xFFFF#16 true)) (fun t => t.crcAcc) = some 0x0F87#16 ∧
    after (exec (.crcStep 0x00#8) State.reset) (fun t => t.faulted) = some (some .crcUninitialised) := by decide

/-- CRC-13, its last step. -/
theorem test_crc_read :
    after (exec .crcRead (State.reset.setCrc 0xF0B8#16 true)) (fun t => (t.result, t.crcAcc)) =
      some (.checksum 0x0F47#16, 0xF0B8#16) := by decide

/-- A fill takes as many bytes as fit: 3 of 5 where 253 are staged (R140). -/
theorem test_dec_fill :
    after (exec (.decFill .ch0) ((stagedIn (zeros 253)).setRing (.inb .ch0)
        (Ring.reset.put [0x01#8, 0x02#8, 0x03#8, 0x04#8, 0x05#8])))
      (fun t => (t.result, t.stage0.fill, t.contents (.inb .ch0), (t.staged .ch0).drop 253)) =
      some (.count 3, 256, [0x04#8, 0x05#8], [0x01#8, 0x02#8, 0x03#8]) := by decide +kernel

/-- DEC-4: five attempts, and the events in order. -/
theorem test_dec_pass_noise :
    after (exec (.decPass .ch0) (stagedIn [0xFF#8, 0x00#8, 0x00#8, 0x00#8, 0x00#8, 0x00#8, 0x47#8, 0x0F#8]))
      (fun t => (t.result, t.stats, t.events)) =
      some (.dispatched, ⟨5, 1, 0, 3, 0, 1, 0⟩, [.unknownCommand .ch0 0xFF#8, .checksumMismatch .ch0 0x00#8 0x0F47#16 0x0000#16,
        .checksumMismatch .ch0 0x00#8 0x0F47#16 0x0000#16, .checksumMismatch .ch0 0x00#8 0x0F47#16 0x4700#16]) := by decide +kernel

/-- E7, variant a: the pass after the resend. -/
theorem test_dec_pass_scenario2 :
    after (exec (.decPass .ch0) (stagedIn [0x00#8, 0x03#8, 0x0F#8, 0x00#8, 0x00#8, 0x47#8, 0x0F#8]))
      (fun t => (t.result, t.stats, t.decState)) =
      some (.dispatched, ⟨4, 1, 1, 1, 0, 1, 0⟩, .inHandler ⟨.ch0, 0x00#8, [0x00#8, 0x00#8], 2, 0⟩) := by decide +kernel

/-- RET-4: the frame's channel is cleared, the other keeps its bytes, the status is discarded. -/
theorem test_hnd_ret :
    after (exec (.hndRet 0x7F#8) (((stagedIn (zeros 5)).setStaging .ch1 (Staging.reset.append [0x00#8, 0x00#8, 0x47#8, 0x0F#8])).setControl
        (.inHandler ⟨.ch1, 0x00#8, [0x00#8, 0x00#8], 2, 1⟩)))
      (fun t => (t.result, t.stage0.fill, t.stage1.fill, t.decState, t.stats.dispatchedCompleted)) =
      some (.commandProcessed, 5, 0, .idle, 1) := by decide

/-- ENC-4 and ENC-10. -/
theorem test_enc_norm :
    after (exec (.encNorm .ch1 [0x80#8, 0x00#8, 0x01#8]) State.reset) (fun t => (t.contents (.outb .ch1), t.decState)) =
      some ([0x80#8, 0x01#8, 0x01#8, 0x71#8, 0xC2#8], .idle) ∧
    after (exec (.encNorm .ch0 (zeros 255)) State.reset) (fun t => (t.faulted, t.out0.used)) = some (some .encoderSize, 0) := by
  decide +kernel

/-- ENC-2 and ENC-6. -/
theorem test_enc_dev :
    after (exec (.encDev .ch0 [0x00#8, 0xFF#8]) State.reset) (fun t => t.contents (.outb .ch0)) =
      some [0x40#8, 0x00#8, 0x21#8, 0x49#8] ∧
    after (exec (.encDev .ch0 [0x0B#8, 0x00#8]) (handling 0x0B#8 0)) (fun t => (t.contents (.outb .ch0), t.decState)) =
      some ([0x4B#8, 0x00#8, 0x89#8, 0xAD#8], .inHandler ⟨.ch0, 0x0B#8, [0x0B#8, 0x00#8], 2, 1⟩) := by decide +kernel

/-- TX-1 and TX-3. -/
theorem test_tx_start :
    after (exec (.txStart .ch0) (withChunk 63 (ringIn (.outb .ch0) 0 [0x40#8, 0x00#8, 0x21#8, 0x49#8] (.tx .ch0))))
      (fun t => (t.result, t.tx0, t.wire0, t.out0.used)) =
      some (.count 4, ⟨true, [0x40#8, 0x00#8, 0x21#8, 0x49#8]⟩, [0x40#8, 0x00#8, 0x21#8, 0x49#8], 0) ∧
    after (exec (.txStart .ch0) (withChunk 63 (issuedBy (.tx .ch0)))) (fun t => (t.result, t.tx0)) = some (.count 0, ⟨false, []⟩) := by
  decide +kernel

/-- TX-2 and TX-5. -/
theorem test_tx_done :
    after (exec (.txDone .ch0) ((issuedBy (.tx .ch0)).setLatch .ch0 ⟨true, [0x40#8]⟩)) (fun t => t.tx0) = some ⟨false, []⟩ ∧
    after (exec (.txDone .ch0) (issuedBy (.tx .ch0))) (fun t => t.faulted) = some (some .txLatch) := by decide

/-- STAT-4, and STAT-6 read back: a counter wraps. -/
theorem test_stat_read :
    after (exec (.statRead 6#3) State.reset) (fun t => t.result) = some (.counter 0) ∧
    ((⟨0, 0, 0, 0xFFFFFFFF#32, 0, 0, 0⟩ : Stats).bump .badChecksum).get .badChecksum = 0 := by decide

/-- P1, step 4. -/
theorem test_cmd_ping :
    after (exec (.cmdPing []) (handling 0x00#8 0)) (fun t => t.contents (.outb .ch0)) = some [0x40#8, 0x00#8, 0x21#8, 0x49#8] := by
  decide +kernel

/-- KEY-2 and KEY-4. -/
theorem test_cmd_read_keypad :
    after (exec (.cmdReadKeypad []) (((handling 0x18#8 0).setKeys 0x05#8).issueHandler ⟨0x03#8, true, 0, [], 0⟩ []))
      (fun t => (t.contents (.outb .ch0), t.lastKeys)) =
      some ([0x58#8, 0x03#8, 0x03#8, 0x02#8, 0x04#8, 0x08#8, 0x5F#8], 0x03#8) ∧
    after (exec (.cmdReadKeypad []) (((handling 0x18#8 0).setKeys 0xFF#8).issueHandler ⟨0x00#8, true, 0, [], 0⟩ []))
      (fun t => (t.contents (.outb .ch0), t.lastKeys)) =
      some ([0x58#8, 0x03#8, 0x00#8, 0x00#8, 0xFF#8, 0x80#8, 0xCA#8], 0x00#8) := by decide +kernel

/-- P5, step 9: the poll a handler answers by its ENC.DEV updates `last_keys`; and an ENC.DEV of another handler does not. -/
theorem test_keypad_by_request :
    after (exec (.encDev .ch0 [0x18#8, 0x00#8, 0x03#8, 0x02#8, 0x04#8]) ((handling 0x18#8 0).setKeys 0x05#8))
      (fun t => (t.contents (.outb .ch0), t.lastKeys)) =
      some ([0x58#8, 0x03#8, 0x03#8, 0x02#8, 0x04#8, 0x08#8, 0x5F#8], 0x03#8) ∧
    after (exec (.encDev .ch0 [0x00#8, 0x00#8, 0x03#8]) ((handling 0x00#8 0).setKeys 0x05#8)) (fun t => t.lastKeys) = some 0x05#8 := by
  decide +kernel

/-- The answer P4 gives for the external handler of set-cursor-position, and ENC-7 for clear-screen. -/
theorem test_cmd_external :
    after (exec (.cmdSetCursorPosition [0x03#8, 0x01#8]) ((handling 0x0B#8 0).issueHandler ⟨0, true, 0x0B#8, [], 0⟩ []))
      (fun t => t.contents (.outb .ch0)) = some [0x4B#8, 0x00#8, 0x89#8, 0xAD#8] ∧
    after (exec (.cmdClearScreen []) ((handling 0x06#8 0).issueHandler ⟨0, true, 0x06#8, [], 0⟩ []))
      (fun t => t.contents (.outb .ch0)) = some [0x46#8, 0x00#8, 0xF1#8, 0x1D#8] := by decide +kernel

/-! ### Faults and refusals (part 2.7) -/

theorem test_faults :
    after (exec (.ringPut (.inb .ch0) [0x01#8]) State.reset) (fun t => t.faulted) = some (some .ringOwnership) ∧
    after (exec (.decFill .ch0) (issuedBy (.rx .ch0))) (fun t => t.faulted) = some (some .decoderOwnership) ∧
    after (exec (.decFill .ch0) (handling 0x00#8 0)) (fun t => t.faulted) = some (some .decoderReentry) ∧
    after (exec (.encDev .ch0 [0x00#8, 0x00#8]) (handling 0x00#8 1)) (fun t => (t.faulted, t.out0.used)) =
      some (some .handlerContract, 0) ∧
    after (exec (.ringInit (.inb .ch0)) (handling 0x00#8 0)) (fun t => t.faulted) = some (some .handlerIllegalOp) ∧
    after (exec (.encDev .ch1 [0x00#8, 0x00#8]) (issuedBy (.rx .ch1))) (fun t => t.faulted) = some (some .encoderOwnership) ∧
    after (exec (.encDev .ch0 [0x00#8]) State.reset) (fun t => t.faulted) = some (some .encoderSize) := by decide +kernel

theorem test_refusals :
    refusalOf (step { State.reset with pending := [.port .main ⟨0x05#8, 0x00#8, 0, []⟩] }) =
      some (.undecodable (.unknownOperation 0x05#8)) ∧
    refusalOf (exec (.statRead 7#3) State.reset) = some (.undecodable (.illFormedOperand 0x50#8 0x07#8)) ∧
    refusalOf (step { State.reset with config := ⟨[⟨0x00#8, 0, 0, some .external⟩], 0⟩ }) = some .illFormedTable := by decide +kernel

/-- A faulted state takes no step but the reset event (R237, R260). -/
theorem test_halted :
    faultOf (step { State.reset with faulted := some .txLatch, pending := [.port .main ⟨0x04#8, 0x00#8, 0, []⟩] }) =
      some (.halted .txLatch) ∧
    after (step { State.reset with faulted := some .txLatch, pending := [.reset], wire0 := [0x40#8] })
      (fun t => (t.faulted, t.wire0, t.pending)) = some (none, [0x40#8], []) := by decide +kernel

/-- The host's placing: a port operation and a command run as the very next step. -/
theorem test_fetch_word :
    after (step (State.reset.withFetchWord 8 0x10)) (fun t => (t.crcAcc, t.crcValid, t.pending)) = some (0xFFFF#16, true, []) ∧
    after (step (State.reset.withFetchWord 8 0x06)) (fun t => (t.faulted, t.out0.used)) = some (none, 4) := by decide +kernel

/-- A request comes to its meaning through the step; the schedule moves on (P8, step 1). -/
theorem test_step :
    after (step { State.reset with pending := [.port .main ⟨0x10#8, 0x00#8, 0, []⟩, .reset] }) (fun t => (t.crcAcc, t.pending)) =
      some (0xFFFF#16, [.reset]) ∧
    after (step State.reset) (fun t => (t.agent, t.result, t.pending)) = some (.main, .none, []) := by decide +kernel

/-! ### Witnesses: the hypotheses of each statement are met, at the boundary values of their clauses -/

theorem witness_RingInitEmptiesRing : State.reset.agent = .main ∧ State.reset.running = false := by decide

theorem witness_RingPutKeepsNewest :
    (issuedBy (.rx .ch0)).agent = producer (.inb .ch0) ∧ State.reset.agent = producer (.outb .ch1) ∧ 128 ≤ (zeros 128).length ∧
    (zeros 127).length < 128 := by decide +kernel

theorem witness_RingGetTakesOldest :
    State.reset.agent = consumer (.inb .ch0) ∧ State.reset.running = false ∧
    ((handling 0x00#8 0).issue (.tx .ch1) []).agent = consumer (.outb .ch1) ∧ isInbound (.outb .ch1) = false := by decide

theorem witness_RingMisuseRaisesFault :
    (issuedBy (.tx .ch0)).agent ≠ .main ∧ ((handling 0x00#8 0).agent = .main ∧ (handling 0x00#8 0).running = true) ∧
    State.reset.agent ≠ producer (.inb .ch0) ∧ (issuedBy (.rx .ch0)).agent ≠ consumer (.inb .ch0) ∧
    ((handling 0x00#8 0).agent = consumer (.inb .ch1) ∧ isInbound (.inb .ch1) = true) := by decide

theorem witness_RingFifoLaw :
    ((RingHistory.start Ring.reset).run (.ring (.inb .ch0)) [.put (zeros 128), .get 3, .put (zeros 3), .get 200]).noOverrun = true := by
  decide +kernel

theorem witness_RingOverrunLaw : 128 < [zeros 100, zeros 29].flatten.length := by decide +kernel

theorem witness_RingOpsOnDifferentRingsCommute : (RingId.inb .ch0) ≠ .outb .ch0 ∧ State.reset.running = false := by decide

theorem witness_CrcEngineSteps : State.reset.agent = .main ∧ (State.reset.setCrc 0xFFFF#16 true).crcValid = true := by decide

theorem witness_CrcEngineComputesCrc16 : State.reset.agent = .main := by decide

theorem witness_CrcMisuseRaisesFault :
    (issuedBy (.rx .ch0)).agent ≠ .main ∧ State.reset.agent = .main ∧ State.reset.crcValid = false := by decide

theorem witness_CrcRoundTripAndResidue : leBytes (crc16 [0x00#8, 0x00#8]) = [0x47#8, 0x0F#8] := by decide

theorem witness_LookupFindsTheEntry : tableWf listedTable = true ∧ listedTable.Perm listedTable.reverse :=
  ⟨by decide, (List.reverse_perm _).symm⟩

theorem witness_IllFormedTableIsRefused :
    tableWf (tableOf ⟨[⟨0x00#8, 0, 0, some .external⟩], 0⟩) = false ∧ tableWf (tableOf ⟨[⟨0x01#8, 2, 1, some .external⟩], 0⟩) = false ∧
    tableWf (tableOf ⟨[⟨0x01#8, 0, 256, some .external⟩], 0⟩) = false ∧ tableWf (tableOf ⟨[⟨0x01#8, 0, 0, none⟩], 0⟩) = false ∧
    tableWf (tableOf resetConfig) = true := by decide +kernel

theorem witness_DecFillMovesBytes : State.reset.agent = .main ∧ State.reset.decState = .idle := by decide

theorem witness_DecoderMisuseRaisesFault :
    (issuedBy (.tx .ch0)).agent ≠ .main ∧ (handling 0x00#8 0).agent = .main ∧ (handling 0x00#8 0).running = true := by decide

theorem witness_DecPassNeedsFourBytes :
    (stagedIn [0x00#8, 0x00#8, 0x47#8]).agent = .main ∧ (stagedIn [0x00#8, 0x00#8, 0x47#8]).decState = .idle ∧
    ((stagedIn [0x00#8, 0x00#8, 0x47#8]).staging .ch0).fill = 3 := by decide

/-- DEC-3: the unknown-id clause. -/
theorem witness_DecPassResyncsByOne_id :
    (stagedIn [0xFF#8, 0x00#8, 0x00#8, 0x00#8]).agent = .main ∧ (stagedIn [0xFF#8, 0x00#8, 0x00#8, 0x00#8]).decState = .idle ∧
    ((stagedIn [0xFF#8, 0x00#8, 0x00#8, 0x00#8]).staging .ch0).fill = 4 ∧
    lookup (tableOf State.reset.config) (byteAt ((stagedIn [0xFF#8, 0x00#8, 0x00#8, 0x00#8]).staged .ch0) 0) = none := by decide +kernel

/-- DEC-8, DEC-9 and DEC-10: the size clause, just outside each bound. -/
theorem witness_DecPassResyncsByOne_size :
    (lookup (tableOf State.reset.config) 0x06#8 = some ⟨0x06#8, 0, 0, some .external⟩ ∧
      (byteAt ((stagedIn [0x06#8, 0x01#8, 0x00#8, 0x00#8]).staged .ch0) 1).toNat = 1 ∧ ¬ (0 ≤ 1 ∧ 1 ≤ 0 ∧ 1 ≤ 252)) ∧
    (lookup (tableOf State.reset.config) 0x00#8 = some ⟨0x00#8, 0, 255, some .ping⟩ ∧
      (byteAt ((stagedIn [0x00#8, 0xFD#8, 0x00#8, 0x00#8]).staged .ch0) 1).toNat = 253 ∧ ¬ (0 ≤ 253 ∧ 253 ≤ 255 ∧ 253 ≤ 252)) ∧
    (lookup (tableOf State.reset.config) 0x1F#8 = some ⟨0x1F#8, 3, 22, some .external⟩ ∧
      (byteAt ((stagedIn [0x1F#8, 0x02#8, 0x00#8, 0x00#8]).staged .ch0) 1).toNat = 2 ∧ ¬ (3 ≤ 2 ∧ 2 ≤ 22 ∧ 2 ≤ 252)) := by
  decide +kernel

/-- DEC-5: the checksum clause, on a frame just complete. -/
theorem witness_DecPassResyncsByOne_checksum :
    lookup (tableOf State.reset.config) 0x00#8 = some ⟨0x00#8, 0, 255, some .ping⟩ ∧
    ((stagedIn [0x00#8, 0x00#8, 0x47#8, 0x0E#8]).staging .ch0).fill = 4 + 0 ∧
    crc16 (((stagedIn [0x00#8, 0x00#8, 0x47#8, 0x0E#8]).staged .ch0).take 2) ≠ le16 0x47#8 0x0E#8 := by decide +kernel

/-- P4, row 5: one byte is missing. -/
theorem witness_DecPassWaitsForFrame :
    (stagedIn [0x0B#8, 0x02#8, 0x03#8, 0x01#8, 0x92#8]).agent = .main ∧
    (stagedIn [0x0B#8, 0x02#8, 0x03#8, 0x01#8, 0x92#8]).decState = .idle ∧
    ((stagedIn [0x0B#8, 0x02#8, 0x03#8, 0x01#8, 0x92#8]).staging .ch0).fill = 5 ∧
    lookup (tableOf State.reset.config) 0x0B#8 = some ⟨0x0B#8, 2, 2, some .external⟩ ∧
    2 = (byteAt ((stagedIn [0x0B#8, 0x02#8, 0x03#8, 0x01#8, 0x92#8]).staged .ch0) 1).toNat := by decide +kernel

/-- DEC-7: a ping with more bytes behind it; and the longest ping, whose frame fills the buffer. -/
theorem witness_DecPassDispatchesValidFrame :
    (stagedIn [0x00#8, 0x00#8, 0x47#8, 0x0F#8, 0x06#8]).agent = .main ∧
    (stagedIn [0x00#8, 0x00#8, 0x47#8, 0x0F#8, 0x06#8]).decState = .idle ∧
    (stagedIn [0x00#8, 0x00#8, 0x47#8, 0x0F#8, 0x06#8]).staged .ch0 = frameOf 0x00#8 [] ++ [0x06#8] ∧
    (stagedIn (frameOf 0x00#8 (zeros 252))).staged .ch0 = frameOf 0x00#8 (zeros 252) ++ [] ∧
    lookup (tableOf State.reset.config) 0x00#8 = some ⟨0x00#8, 0, 255, some .ping⟩ ∧ (zeros 252).length = 252 := by decide +kernel

theorem witness_DecPassIsBounded :
    (stagedIn (zeros 256)).agent = .main ∧ (stagedIn (zeros 256)).decState = .idle ∧ ((stagedIn (zeros 256)).staging .ch0).fill = 256 := by
  decide +kernel

theorem witness_DecPassInvokesAtMostOne : State.reset.agent = .main ∧ State.reset.decState = .idle := by decide

theorem witness_DecPassEventsInOrder :
    State.reset.agent = .main ∧ State.reset.decState = .idle ∧ (State.reset.staging .ch0).fill ≤ 256 := by decide

theorem witness_DecPassOnFullBufferProgresses :
    (stagedIn (zeros 256)).agent = .main ∧ (stagedIn (zeros 256)).decState = .idle ∧ ((stagedIn (zeros 256)).staging .ch0).fill = 256 := by
  decide +kernel

/-- E4: the noise `06 00` before a ping. -/
theorem witness_DecPassDropsNoiseThenDispatches :
    (stagedIn [0x06#8, 0x00#8, 0x00#8, 0x00#8, 0x47#8, 0x0F#8]).agent = .main ∧
    (stagedIn [0x06#8, 0x00#8, 0x00#8, 0x00#8, 0x47#8, 0x0F#8]).decState = .idle ∧
    ((stagedIn [0x06#8, 0x00#8, 0x00#8, 0x00#8, 0x47#8, 0x0F#8]).staging .ch0).fill ≤ 256 ∧
    (stagedIn [0x06#8, 0x00#8, 0x00#8, 0x00#8, 0x47#8, 0x0F#8]).staged .ch0 = [0x06#8, 0x00#8] ++ frameOf 0x00#8 [] ++ [] ∧
    lookup (tableOf State.reset.config) 0x00#8 = some ⟨0x00#8, 0, 255, some .ping⟩ ∧
    ∀ k, k < 2 → rejected (tableOf State.reset.config) ([0x06#8, 0x00#8, 0x00#8, 0x00#8, 0x47#8, 0x0F#8].drop k) = true := by
  decide +kernel

theorem witness_PartialDeliveryDispatchesAtLastByte :
    State.reset.decState = .idle ∧ (State.reset.staging .ch0).fill = 0 ∧ (State.reset.ring (.inb .ch0)).used = 0 ∧
    lookup (tableOf State.reset.config) 0x0B#8 = some ⟨0x0B#8, 2, 2, some .external⟩ ∧ [0x03#8, 0x01#8].length = 2 := by decide +kernel

theorem witness_HndRetCompletesDispatch :
    (handling 0x00#8 1).agent = .main ∧ (handling 0x00#8 1).decState = .inHandler ⟨.ch0, 0x00#8, [0x00#8, 0x00#8], 2, 1⟩ := by decide

/-- RET-2 and RET-3. -/
theorem witness_HndRetChecksContract :
    (State.reset.agent = .main ∧ State.reset.decState = .idle) ∧ (handling 0x00#8 0).agent = .main ∧
    (handling 0x00#8 0).decState = .inHandler ⟨.ch0, 0x00#8, [0x00#8, 0x00#8], 2, 0⟩ := by decide

/-- ENC-11's longest payload, in Idle and in a handler that has not sent. -/
theorem witness_EncoderPutsFrame :
    State.reset.agent = .main ∧ (zeros 252).length = 252 ∧ State.reset.decState = .idle ∧
    (handling 0x00#8 0).decState = .inHandler ⟨.ch0, 0x00#8, [0x00#8, 0x00#8], 2, 0⟩ ∧ (handling 0x00#8 0).keypadRuns = false ∧
    (handling 0x18#8 0).decState = .inHandler ⟨.ch0, 0x18#8, [0x18#8, 0x00#8], 2, 0⟩ ∧ (handling 0x18#8 0).keypadRuns = true := by
  decide +kernel

/-- ENC-14; ENC-9 and ENC-10; ENC-12 and ENC-13. -/
theorem witness_EncoderMisuseRaisesFault :
    (issuedBy (.rx .ch1)).agent ≠ .main ∧ State.reset.agent = .main ∧ (zeros 1).length < 2 ∧ 254 < (zeros 255).length ∧
    2 ≤ (zeros 2).length ∧ (zeros 254).length ≤ 254 ∧
    (handling 0x00#8 1).decState = .inHandler ⟨.ch0, 0x00#8, [0x00#8, 0x00#8], 2, 1⟩ ∧
    (handling 0x00#8 0).decState = .inHandler ⟨.ch0, 0x00#8, [0x00#8, 0x00#8], 2, 0⟩ ∧ Channel.ch0 ≠ .ch1 := by decide +kernel

theorem witness_EncoderFrameIsWholeWithRoom :
    (zeros 124).length + 4 ≤ (State.reset.ring (.outb .ch0)).free ∧ State.reset.faulted = none ∧
    after (exec (.encDev .ch0 (0x00#8 :: 0x00#8 :: zeros 124)) State.reset) (fun t => t.faulted) = some none := by decide +kernel

/-- P1, step 4; the second clause with ENC-8's payload. -/
theorem witness_PingResponds :
    (handling 0x00#8 0).agent = .main ∧
    (handling 0x00#8 0).decState = .inHandler ⟨.ch0, 0x00#8, [0x00#8, 0x00#8], 2, 0⟩ ∧ [0x12#8, 0x34#8] ≠ [] := by decide

theorem witness_ReadKeypadReportsEdges :
    (handling 0x18#8 0).agent = .main ∧
    (handling 0x18#8 0).decState = .inHandler ⟨.ch0, 0x18#8, [0x18#8, 0x00#8], 2, 0⟩ := by decide

theorem witness_ExternalCommandsRespondOnce :
    (handling 0x06#8 0).agent = .main ∧ (handling 0x06#8 0).decState = .inHandler ⟨.ch0, 0x06#8, [0x06#8, 0x00#8], 2, 0⟩ ∧
    ((handling 0x06#8 0).issueHandler ⟨0, false, 0x06#8, zeros 252, 0⟩ []).draw.replyPayload.length = 252 := by decide +kernel

theorem witness_CommandsReturnAfterResponse :
    (handling 0x06#8 1).agent = .main ∧ (handling 0x06#8 1).decState = .inHandler ⟨.ch0, 0x06#8, [0x06#8, 0x00#8], 2, 1⟩ ∧
    State.reset.agent = .main ∧ State.reset.decState = .idle := by decide

theorem witness_TxStartSendsChunk :
    (issuedBy (.tx .ch0)).agent = .tx .ch0 ∧ ((issuedBy (.tx .ch0)).latch .ch0).busy = false ∧
    ((issuedBy (.tx .ch0)).ring (.outb .ch0)).used = 0 ∧
    ((ringIn (.outb .ch0) 0 [0x40#8] (.tx .ch0)).latch .ch0).busy = false ∧
    0 < ((ringIn (.outb .ch0) 0 [0x40#8] (.tx .ch0)).ring (.outb .ch0)).used := by decide +kernel

theorem witness_TxDoneClearsLatch :
    ((issuedBy (.tx .ch0)).setLatch .ch0 ⟨true, [0x40#8]⟩).agent = .tx .ch0 ∧
    (((issuedBy (.tx .ch0)).setLatch .ch0 ⟨true, [0x40#8]⟩).latch .ch0).busy = true := by decide

/-- TX-6, TX-4 and TX-5. -/
theorem witness_TxMisuseRaisesFault :
    (issuedBy (.tx .ch1)).agent ≠ .tx .ch0 ∧ ((issuedBy (.tx .ch0)).latch .ch0).busy = false ∧
    (((issuedBy (.tx .ch0)).setLatch .ch0 ⟨true, [0x40#8]⟩).latch .ch0).busy = true := by decide

/-- A state whose next input is a step of the handler of an entry the table adds (id 0x30, no payload). -/
def addedRun (handler : Handler) (sends : Nat) : State :=
  { handling 0x30#8 sends with config := ⟨[⟨0x30#8, 0, 0, some handler⟩], 0⟩, pending := [.handler ⟨0x03#8, true, 0x30#8, [], 0⟩] }

theorem witness_OnlyTxStartReachesWire :
    (∃ t, exec (.txStart .ch0) (issuedBy (.tx .ch0)) = .next t) ∧ ∃ t, step (addedRun .external 0) = .next t := ⟨⟨_, rfl⟩, _, rfl⟩

theorem witness_KeysAndCrcHaveOneWriter :
    (∃ t, exec (.decPass .ch0) State.reset = .next t ∧ Instr.decPass .ch0 ≠ .crcInit) ∧
    (∃ t, step (addedRun .readKeypad 0) = .next t) ∧ ∀ rest, (addedRun .readKeypad 0).pending ≠ .reset :: rest :=
  ⟨⟨_, rfl, by decide⟩, ⟨_, rfl⟩, by simp [addedRun]⟩

theorem witness_CountersHaveTheirWriters :
    (∃ t, exec (.hndRet 0x00#8) (handling 0x00#8 1) = .next t) ∧ (∃ t, exec (.decPass .ch0) State.reset = .next t) ∧
    (∃ t, step (addedRun .ping 1) = .next t) ∧ ∀ ch u, fetch (addedRun .ping 1) ≠ .run (.decPass ch) u :=
  ⟨⟨_, rfl⟩, ⟨_, rfl⟩, ⟨_, rfl⟩, fun _ _ => Fetched.noConfusion⟩

theorem witness_StepKeepsCountersBalanced : State.reset.stats.balanced ∧ ∃ t, step State.reset = .next t := ⟨by decide, _, rfl⟩

theorem witness_StepKeepsCompletionsOwed : State.reset.completionsOwed ∧ ∃ t, step State.reset = .next t := ⟨by decide, _, rfl⟩

theorem witness_FaultWritesOnlyTheMark :
    (∃ t, exec .crcRead State.reset = .next t ∧ State.reset.faulted = none ∧ t.faulted = some .crcUninitialised) ∧
    (∃ t, exec .crcInit (State.reset.raise .txLatch) = .next t ∧ (State.reset.raise .txLatch).faulted = some .txLatch) ∧
    ∃ t, step (addedRun .external 2) = .next t ∧ t.faulted = some .handlerContract :=
  ⟨⟨_, rfl, rfl, rfl⟩, ⟨_, rfl, rfl⟩, _, rfl, rfl⟩

theorem witness_FaultedStateOnlyResets :
    tableWf (tableOf State.reset.config) = true ∧
    ({ State.reset with faulted := some .txLatch, pending := [.reset] } : State).faulted = some .txLatch ∧
    ({ State.reset with faulted := some .txLatch, pending := [.reset] } : State).pending = .reset :: [] ∧
    Input.handler Draw.reset ≠ .reset := by decide +kernel

theorem witness_WellFormedInstructionsComplete : Instr.wf (.statRead 6#3) = true := by decide

theorem witness_ResetEventClearsEverything :
    tableWf (tableOf State.reset.config) = true ∧ ({ State.reset with pending := [.reset] } : State).pending = [.reset] := by
  decide +kernel

theorem witness_StepRunsDecodedRequest :
    tableWf (tableOf State.reset.config) = true ∧ State.reset.faulted = none ∧
    ({ State.reset with pending := [.port .main ⟨0x10#8, 0x00#8, 0, []⟩] } : State).pending =
      .port .main ⟨0x10#8, 0x00#8, 0, []⟩ :: [] ∧ decodeRequest ⟨0x10#8, 0x00#8, 0, []⟩ = .ok .crcInit := by decide +kernel

theorem witness_StepRunsHandledCommand :
    tableWf (tableOf State.reset.config) = true ∧ (handling 0x06#8 0).faulted = none ∧
    ({ handling 0x06#8 0 with pending := [.handler Draw.reset] } : State).pending = .handler Draw.reset :: [] ∧
    (handling 0x06#8 0).decState = .inHandler ⟨.ch0, 0x06#8, [0x06#8, 0x00#8], 2, 0⟩ ∧
    decodeCommand [0x06#8, 0x00#8] = .ok (.cmdClearScreen [], []) ∧ tableWf (tableOf (addedRun .ping 0).config) = true ∧
    (addedRun .ping 0).faulted = none ∧ (addedRun .ping 0).pending = .handler ⟨0x03#8, true, 0x30#8, [], 0⟩ :: [] ∧
    (addedRun .ping 0).decState = .inHandler ⟨.ch0, 0x30#8, headerAndPayload 0x30#8 [], 2, 0⟩ ∧
    (addedRun .readKeypad 1).decState = .inHandler ⟨.ch0, 0x30#8, headerAndPayload 0x30#8 [], 2, 1⟩ ∧
    ⟨0x30#8, 0, 0, some .ping⟩ ∈ (addedRun .ping 0).config.extra ∧
    ⟨0x30#8, 0, 0, some .readKeypad⟩ ∈ (addedRun .readKeypad 0).config.extra ∧
    ⟨0x30#8, 0, 0, some .external⟩ ∈ (addedRun .external 0).config.extra := by decide +kernel

/-- An entry the table adds runs the handler it names: the keypad's poll, by a handler step. -/
theorem test_added_entry :
    after (step (addedRun .readKeypad 0)) (fun t => (t.contents (.outb .ch0), t.lastKeys)) =
      some (respOf 0x18#8 [0x03#8, 0x03#8, 0x00#8], 0x03#8) ∧
    after (step (addedRun .ping 0)) (fun t => t.contents (.outb .ch0)) = some [0x40#8, 0x00#8, 0x21#8, 0x49#8] := by decide +kernel

theorem witness_MeaninglessInputsAreRefused :
    (0x05#8 : Byte) ∉ [0x01#8, 0x02#8, 0x03#8, 0x04#8, 0x10#8, 0x11#8, 0x12#8, 0x20#8, 0x21#8, 0x22#8, 0x30#8, 0x31#8, 0x40#8, 0x41#8,
      0x50#8] ∧ (0x04#8 : Byte) ∈ [0x01#8, 0x04#8] ∧ 4 ≤ (0x04#8 : Byte).toNat ∧
    (0x41#8 : Byte) ∈ [0x20#8, 0x21#8, 0x40#8, 0x41#8] ∧ 2 ≤ (0x02#8 : Byte).toNat ∧ (0xFF#8 : Byte).toNat % 8 = 7 := by decide

theorem witness_StepKeepsStateWellFormed : State.reset.wf = true ∧ ∃ t, step State.reset = .next t := ⟨rfl, _, rfl⟩

theorem witness_StepKeepsHandlerFrameStaged : (handling 0x06#8 0).frameStaged = true ∧ ∃ t, step (handling 0x06#8 0) = .next t :=
  ⟨by decide, _, rfl⟩

theorem witness_DecodeEncodeRoundTrip : Instr.wf (.cmdSendDataToDisplay (zeros 22)) = true := by decide +kernel

theorem witness_WellFormedCommandIsDispatchedAndFetched :
    Instr.wf (.cmdReadKeypad []) = true ∧ encode (.cmdReadKeypad []) = .command [0x18#8, 0x00#8] ∧
    (stagedIn [0x18#8, 0x00#8, 0x16#8, 0x54#8]).agent = .main ∧ (stagedIn [0x18#8, 0x00#8, 0x16#8, 0x54#8]).decState = .idle ∧
    (stagedIn [0x18#8, 0x00#8, 0x16#8, 0x54#8]).faulted = none ∧ tableWf (tableOf State.reset.config) = true ∧
    (stagedIn [0x18#8, 0x00#8, 0x16#8, 0x54#8]).staged .ch0 = withChecksum [0x18#8, 0x00#8] ++ [] := by decide +kernel

end Sys2Proof.Tests
end

section
/-! SUPPORT. Proofs of the statements of 00_scope: what a step takes from the schedule, what reaches a wire, and the one response of a
running handler, of a listed command or of an entry the table adds. -/

namespace Sys2Proof.Machine

/-! ### The front of the schedule (R8, R9) -/

/-- A request at the front is what the step fetches. -/
theorem fetch_port {s : State} {ag : Agent} {r : Request} {rest : List Input} (ht : tableWf (tableOf s.config) = true)
    (hf : s.faulted = none) (hp : s.pending = .port ag r :: rest) : fetch s = fetchRequest s ag r rest := by
  simp [fetch, ht, hf, hp]

/-- A handler step at the front is what the step fetches. -/
theorem fetch_handler {s : State} {d : Draw} {rest : List Input} (ht : tableWf (tableOf s.config) = true)
    (hf : s.faulted = none) (hp : s.pending = .handler d :: rest) : fetch s = fetchHandler s d rest := by
  simp [fetch, ht, hf, hp]

theorem step_run {s u : State} {i : Instr} (h : fetch s = .run i u) : step s = exec i u := by simp [step, h]

theorem step_external {s u : State} (h : fetch s = .external u) : step s = execTableHandler u := by simp [step, h]

/-- Fetching an instruction writes the model's own fields alone, so no wire, ring or parameter. -/
theorem fetch_run_frame {s u : State} {i : Instr} (h : fetch s = .run i u) (ch : Channel) (r : RingId) :
    u.wire ch = s.wire ch ∧ u.contents r = s.contents r ∧ u.config = s.config := by
  obtain ⟨-, -, ⟨ag, q, rest, -, -, rfl⟩ | ⟨d, rest, run, extra, -, -, -, rfl⟩⟩ := fetch_run h <;> simp

/-- Settles O52: the front of the schedule is a request, and the decoder names its instruction. -/
theorem stepRunsDecodedRequest : Obligations.StepRunsDecodedRequest := by
  intro s ag r rest i ht hf hp hi
  have hfetch : fetch s = .run i (s.issue ag rest) := by simp [fetch_port ht hf hp, fetchRequest, hi]
  exact step_run hfetch

/-! ### The wires (R212, R215) -/

/-- The step from `s` to `t` moves at most TX_CHUNK bytes from the front of OUT(ch) to the end of the wire (R212). -/
def SendsChunk (ch : Channel) (s t : State) : Prop :=
  ∃ out, t.wire ch = s.wire ch ++ out ∧ s.contents (.outb ch) = out ++ t.contents (.outb ch) ∧ out.length ≤ s.config.txChunk

theorem handlerReturn_wire {s t : State} (h : handlerReturn s = .ok t) (c : Channel) : t.wire c = s.wire c := by
  obtain ⟨-, run, -, -, rfl⟩ := handlerReturn_ok h
  simp

theorem encSend_wire {s t : State} {ch : Channel} {bytes : List Byte} {set40 : Bool} (h : encSend s ch bytes set40 = .ok t)
    (c : Channel) : t.wire c = s.wire c := by
  obtain ⟨-, -, -, d, -, rfl⟩ := encSend_ok h
  simp

@[simp] theorem reject_wire (s : State) (ch : Channel) (n : StatName) (e : Event) (c : Channel) :
    (s.reject ch n e).wire c = s.wire c := by simp [State.reject]

theorem passLoop_wire (ch : Channel) (fuel : Nat) (s : State) (c : Channel) : (passLoop ch fuel s).wire c = s.wire c := by
  refine passLoop_induction (P := fun u => u.wire c = s.wire c) (Q := fun u => u.wire c = s.wire c) ?_ ?_ ?_ fuel s rfl
  · intro u t hu ha
    obtain ⟨-, n, e, -, rfl⟩ := attempt_again ha
    simpa using hu
  · intro u t hu ha
    obtain ⟨-, rfl⟩ | ⟨-, ⟨id, req, -, rfl⟩ | ⟨n, -, rfl⟩⟩ := attempt_done ha <;> simpa using hu
  · intro u hu
    simpa using hu

/-- What TX.START sends is the front of the ring, which it consumes. -/
theorem contents_front_consume (s : State) (r : RingId) (m : Nat) :
    s.contents r = s.front r m ++ (s.consume r m).contents r := by
  rw [front_take, consume_contents, List.take_append_drop]

theorem exec_wire {i : Instr} {s t : State} (h : exec i s = .next t) (ch : Channel) :
    t.wire ch = s.wire ch ∨ (i = .txStart ch ∧ s.agent = .tx ch ∧ SendsChunk ch s t) := by
  cases exec_effect h
  case start c out hi ha _ hout _ =>
    by_cases hc : ch = c
    · subst hc hout
      refine .inr ⟨hi, ha, s.front (.outb ch) s.config.txChunk, by simp, ?_, by simp⟩
      simpa using contents_front_consume s (.outb ch) s.config.txChunk
    · exact .inl (by simp [send_wire_other _ _ _ _ hc])
  case pass c _ _ => exact .inl (passLoop_wire ..)
  case returns _ hr => exact .inl (handlerReturn_wire hr ch)
  case sends hs => exact .inl (encSend_wire hs ch)
  all_goals exact .inl (by simp)

theorem execTableHandler_wire {s t : State} (h : execTableHandler s = .next t) (c : Channel) : t.wire c = s.wire c := by
  obtain ⟨r, rfl⟩ | hr | ⟨ch, bytes, set40, hs⟩ := execTableHandler_next h
  · simp
  · exact handlerReturn_wire hr c
  · exact encSend_wire hs c

@[simp] theorem resetEvent_wire (s : State) (rest : List Input) (c : Channel) : (s.resetEvent rest).wire c = s.wire c := by
  cases c <;> rfl

theorem step_wire {s t : State} (h : step s = .next t) (ch : Channel) :
    t.wire ch = s.wire ch ∨ (startsTx s ch = true ∧ SendsChunk ch s t) := by
  obtain ⟨-, rfl⟩ | ⟨rest, -, rfl⟩ | ⟨i, u, hf, hx⟩ | ⟨u, hf, hx⟩ := step_next h
  · exact .inl rfl
  · exact .inl (by simp)
  · obtain ⟨hw, hc, hcfg⟩ := fetch_run_frame hf ch (.outb ch)
    obtain hx | ⟨rfl, ha, hsend⟩ := exec_wire hx ch
    · exact .inl (hx.trans hw)
    · exact .inr ⟨by simp [startsTx, hf, ha], by simpa only [SendsChunk, hw, hc, hcfg] using hsend⟩
  · obtain ⟨-, d, rest, -, rfl⟩ := fetch_external hf
    exact .inl (by simpa using execTableHandler_wire hx ch)

/-- Settles O41: of all that an instruction or a step can do, only the start of a transmission writes a wire. -/
theorem onlyTxStartReachesWire : Obligations.OnlyTxStartReachesWire :=
  fun _ _ ch => ⟨fun _ h => exec_wire h ch, fun h => step_wire h ch⟩

/-! ### The one response of a running handler (R172, R192) -/

/-- The step from `s` to `t` is the one send of the running handler `h`: the frame `f` into its channel's ring, the send counted,
`last_keys` left at `k`, and nothing else of the block written. -/
structure RespondsOnce (s : State) (h : HandlerRun) (f : List Byte) (k : Byte) (t : State) : Prop where
  puts : PutsInto (.outb h.ch) f s t
  sent : t.decState = .inHandler { h with sends := 1 }
  keys : t.lastKeys = k
  crc : SameCrc s t
  staging : SameStaging s t
  stats : SameStats s t
  transport : SameTransport s t
  control : SameControl s t
  invocations : t.invocations = s.invocations
  result : t.result = .none

section Responses

variable {s : State} {h : HandlerRun} (ha : s.agent = .main) (hd : s.decState = .inHandler h)

include hd

/-- A running handler that the table does not name read-keypad is no poll. -/
theorem keypadRuns_eq_false {x : Handler} (hh : handlerOf (tableOf s.config) h.id = some x) (hx : x ≠ .readKeypad) :
    s.keypadRuns = false := by
  simp [keypadRuns_handler hd, hh, hx]

theorem keypadRuns_eq_true (hh : handlerOf (tableOf s.config) h.id = some .readKeypad) : s.keypadRuns = true := by
  simp [keypadRuns_handler hd, hh]

theorem execTableHandler_eq :
    execTableHandler s = settle s (handlerStep h.id (tableResponse (tableOf s.config) h) s) := by
  simp [execTableHandler, hd]

include ha

/-- A handler that has sent returns (R172, R174). -/
theorem handlerStep_return {respond : Channel → State → Except FaultReason State} (hs : 1 ≤ h.sends) :
    handlerStep h.id respond s = handlerReturn s := by
  simp [handlerStep, ha, hd, Nat.one_le_iff_ne_zero.1 hs]

/-- An added entry's handler that has sent returns, as HND.RET does with any status (R174). -/
theorem execTableHandler_return (hs : 1 ≤ h.sends) (status : Byte) : execTableHandler s = exec (.hndRet status) s := by
  rw [execTableHandler_eq hd, handlerStep_return ha hd hs, exec, execHndRet]

variable (hs : h.sends = 0)

include hs

/-- A handler that has not sent responds (R172). -/
theorem handlerStep_respond {respond : Channel → State → Except FaultReason State} :
    handlerStep h.id respond s = respond h.ch s := by
  simp [handlerStep, ha, hd, hs]

/-- An added entry's handler that has not sent responds as the handler it names does. -/
theorem execTableHandler_respond {t : State} (ht : tableResponse (tableOf s.config) h h.ch s = .ok t) :
    execTableHandler s = .next t := by
  rw [execTableHandler_eq hd, handlerStep_respond ha hd hs, ht, settle_ok]

/-- The first send of a handler on its own channel, of a payload that fits, succeeds. -/
theorem encSend_respondsOnce (b0 b1 : Byte) {p : List Byte} (set40 : Bool) (hp : p.length ≤ 252) :
    ∃ t, encSend s h.ch (b0 :: b1 :: p) set40 = .ok t ∧
      RespondsOnce s h (if set40 then respOf b0 p else frameOf b0 p) (s.polledKeys (b0 :: b1 :: p)) t := by
  have hn : noteSend s.decState h.ch = .ok (.inHandler { h with sends := 1 }) := by simp [noteSend, hd, hs]
  refine ⟨_, encSend_eq ha (by simp) (by simp; omega) hn, ?_⟩
  rw [withChecksum_encoderBuffer]
  exact ⟨send_putsInto .., by simp, by simp, ⟨by simp, by simp⟩, fun _ => by simp, by simp [SameStats],
    ⟨fun _ => by simp, fun _ => by simp⟩, ⟨by simp, by simp, by simp, by simp, by simp⟩, by simp, by simp⟩

/-- The external handler's response is one frame of the draws (log entry 10). -/
theorem externalResponse_respondsOnce (hk : s.keypadRuns = false) (hp : s.draw.replyPayload.length ≤ 252) :
    ∃ t, externalResponse h.ch s = .ok t ∧
      RespondsOnce s h (if s.draw.replyDevice then respOf s.draw.replyId s.draw.replyPayload
        else frameOf s.draw.replyId s.draw.replyPayload) s.lastKeys t := by
  simpa only [externalResponse, polledKeys_other hk] using
    encSend_respondsOnce ha hd hs s.draw.replyId 0x00#8 s.draw.replyDevice hp

/-- The ping handler's response is one device frame of its reply (R176). -/
theorem pingResponse_respondsOnce (hk : s.keypadRuns = false) {p : List Byte} (hp : (pingReply p).length ≤ 252) :
    ∃ t, pingResponse p h.ch s = .ok t ∧ RespondsOnce s h (respOf 0x00#8 (pingReply p)) s.lastKeys t := by
  simpa only [pingResponse, polledKeys_other hk, if_true] using encSend_respondsOnce ha hd hs 0x00#8 0x00#8 true hp

/-- The read-keypad handler's response is one device frame of its poll, and `last_keys` takes the poll's bitmask (R188). -/
theorem keypadResponse_respondsOnce (hk : s.keypadRuns = true) :
    ∃ t, keypadResponse h.ch s = .ok t ∧ RespondsOnce s h (respOf 0x18#8
      [s.draw.keys, pressedKeys s.lastKeys s.draw.keys, releasedKeys s.lastKeys s.draw.keys]) s.draw.keys t := by
  have hp : [s.draw.keys, pressedKeys s.lastKeys s.draw.keys, releasedKeys s.lastKeys s.draw.keys].length ≤ 252 := by simp
  simpa only [keypadResponse, polledKeys_keypad hk, if_true, List.headD_cons] using
    encSend_respondsOnce ha hd hs 0x18#8 0x00#8 true hp

end Responses

/-- The reply to an empty ping (R176). -/
theorem respOf_emptyPing : respOf 0x00#8 (pingReply []) = [0x40#8, 0x00#8, 0x21#8, 0x49#8] := by decide

/-- Settles O36: every external command's step is one and the same send of the draws. -/
theorem externalCommandsRespondOnce : Obligations.ExternalCommandsRespondOnce := by
  intro s h p i id hi ha hd hid hs hp
  have hcommand : exec i s = settle s (handlerStep id externalResponse s) ∧
      ∃ e, lookup listedTable id = some e ∧ e.handler = some .external := by
    simp only [List.mem_cons, Prod.mk.injEq, List.not_mem_nil, or_false] at hi
    obtain ⟨rfl, rfl⟩ | ⟨rfl, rfl⟩ | ⟨rfl, rfl⟩ | ⟨rfl, rfl⟩ | ⟨rfl, rfl⟩ | ⟨rfl, rfl⟩ | ⟨rfl, rfl⟩ | ⟨rfl, rfl⟩ | ⟨rfl, rfl⟩ |
      ⟨rfl, rfl⟩ | ⟨rfl, rfl⟩ := hi <;> exact ⟨rfl, _, rfl, rfl⟩
  obtain ⟨hexec, e, hl, he⟩ := hcommand
  subst hid
  have hk := keypadRuns_eq_false hd ((handlerOf_listed s.config hl).trans he) (by decide)
  obtain ⟨t, ht, hr⟩ := externalResponse_respondsOnce ha hd hs hk hp
  have hnext : exec i s = .next t := by rw [hexec, handlerStep_respond ha hd hs, ht, settle_ok]
  exact ⟨t, _, hnext, rfl, hr.puts, hr.sent, hr.crc, hr.staging, hr.stats, hr.keys, hr.transport, hr.control,
    hr.invocations, hr.result⟩

/-! ### The entries a table adds (R142, R170, R171) -/

/-- The ids of a well-formed table are distinct (R170 (a)). -/
theorem tableWf_pairwise {table : List Descriptor} (h : tableWf table = true) :
    table.Pairwise (fun d e => d.commandId ≠ e.commandId) := by
  induction table with
  | nil => exact .nil
  | cons d rest ih =>
    simp only [tableWf, Bool.and_eq_true, List.all_eq_true, bne_iff_ne] at h
    obtain ⟨⟨⟨⟨hd, -⟩, -⟩, -⟩, hrest⟩ := h
    exact .cons (fun e he => (hd e he).symm) (ih hrest)

/-- An added entry has none of the listed ids. -/
theorem tableWf_added_ne {p : Config.Params} {e : Descriptor} (h : tableWf (tableOf p) = true) (he : e ∈ p.extra) :
    ∀ d ∈ listedTable, d.commandId ≠ e.commandId := by
  obtain ⟨-, -, hdistinct⟩ := List.pairwise_append.1 (tableWf_pairwise h)
  exact fun d hd => hdistinct d hd e he

/-- Lookup finds an entry of a well-formed table by its id (R142). -/
theorem lookup_of_mem {table : List Descriptor} {e : Descriptor} (h : tableWf table = true) (he : e ∈ table) :
    lookup table e.commandId = some e := by
  have hp := tableWf_pairwise h
  clear h
  unfold lookup
  induction hp with
  | nil => cases he
  | @cons d rest hd _ ih =>
    obtain rfl | he := List.mem_cons.1 he
    · simp
    · simpa [hd e he] using ih he

theorem handlerOf_added {p : Config.Params} {e : Descriptor} (h : tableWf (tableOf p) = true) (he : e ∈ p.extra) :
    handlerOf (tableOf p) e.commandId = e.handler := by
  simp [handlerOf, lookup_of_mem h (List.mem_append_right listedTable he)]

/-- An id that is not listed names no listed command (R76, R77). -/
theorem commandOf_eq_none {id : Byte} (h : ∀ d ∈ listedTable, d.commandId ≠ id) (p : List Byte) : commandOf id p = none := by
  simp only [listedTable, List.cons_append, List.nil_append, List.forall_mem_cons] at h
  unfold commandOf
  split <;> simp_all

/-- The frame of an id that is not listed decodes to no command (R77). -/
theorem decodeCommand_unlisted {id : Byte} {p : List Byte} (h : ∀ d ∈ listedTable, d.commandId ≠ id) (hp : p.length ≤ 252) :
    decodeCommand (headerAndPayload id p) = .error (.unknownCommand id) := by
  have hn : (BitVec.ofNat 8 p.length).toNat = p.length := by simp; omega
  simp [decodeCommand, headerAndPayload, hn, commandOf_eq_none h]

theorem fetch_unlisted {s : State} {h : HandlerRun} {d : Draw} {rest : List Input} {p : List Byte}
    (ht : tableWf (tableOf s.config) = true) (hf : s.faulted = none) (hp : s.pending = .handler d :: rest)
    (hd : s.decState = .inHandler h) (hframe : h.frame = headerAndPayload h.id p)
    (hid : ∀ e ∈ listedTable, e.commandId ≠ h.id) (hlen : p.length ≤ 252) : fetch s = .external (s.issueHandler d rest) := by
  simp [fetch_handler ht hf hp, fetchHandler, hd, hframe, decodeCommand_unlisted hid hlen]

theorem tableResponse_external {table : List Descriptor} {h : HandlerRun} (hh : handlerOf table h.id = some .external) :
    tableResponse table h = externalResponse := by simp only [tableResponse, hh]

theorem tableResponse_ping {table : List Descriptor} {h : HandlerRun} (hh : handlerOf table h.id = some .ping) :
    tableResponse table h = pingResponse (h.frame.drop Config.headerSize) := by simp only [tableResponse, hh]

theorem tableResponse_keypad {table : List Descriptor} {h : HandlerRun} (hh : handlerOf table h.id = some .readKeypad) :
    tableResponse table h = keypadResponse := by simp only [tableResponse, hh]

/-- An added entry of the ping handler answers with the reply to its frame's payload (R176). -/
theorem addedPing_respondsOnce {s : State} {h : HandlerRun} {p : List Byte} (ha : s.agent = .main)
    (hd : s.decState = .inHandler h) (hs : h.sends = 0) (hh : handlerOf (tableOf s.config) h.id = some .ping)
    (hframe : h.frame = headerAndPayload h.id p) (hp : (pingReply p).length ≤ 252) :
    ∃ t, execTableHandler s = .next t ∧ RespondsOnce s h (respOf 0x00#8 (pingReply p)) s.lastKeys t := by
  have hpayload : h.frame.drop Config.headerSize = p := by rw [hframe]; rfl
  obtain ⟨t, ht, hr⟩ := pingResponse_respondsOnce ha hd hs (keypadRuns_eq_false hd hh (by decide)) hp
  exact ⟨t, execTableHandler_respond ha hd hs (by rw [tableResponse_ping hh, hpayload, ht]), hr⟩

/-- Settles O53: a listed command is fetched as itself; the frame of an added entry decodes to no listed command, so the step is that of
the handler which lookup finds for it. -/
theorem stepRunsHandledCommand : Obligations.StepRunsHandledCommand := by
  intro s h d rest ht hf hp hd
  refine ⟨fun i extra hi => ?_, fun e p he hid hlen hframe => ?_⟩
  · have hfetch : fetch s = .run i (s.issueHandler d rest) := by simp [fetch_handler ht hf hp, fetchHandler, hd, hi]
    exact step_run hfetch
  have hhandler : handlerOf (tableOf s.config) h.id = e.handler := hid ▸ handlerOf_added ht he
  have hstep := step_external (fetch_unlisted ht hf hp hd hframe (hid ▸ tableWf_added_ne ht he) hlen)
  have hdu : (s.issueHandler d rest).decState = .inHandler h := hd
  refine ⟨fun hs => hstep.trans (execTableHandler_return rfl hdu hs d.status), fun hs f hcases => ?_⟩
  have hresponds : ∃ t, execTableHandler (s.issueHandler d rest) = .next t ∧ RespondsOnce (s.issueHandler d rest) h f
      (if e.handler = some .readKeypad then d.keys else s.lastKeys) t := by
    obtain ⟨hx, hq, rfl⟩ | ⟨hx, rfl, rfl⟩ | ⟨hx, hne, hq, rfl⟩ | ⟨hx, rfl⟩ := hcases <;> rw [hx] at hhandler ⊢
    · obtain ⟨t, ht, hr⟩ := externalResponse_respondsOnce rfl hdu hs (keypadRuns_eq_false hdu hhandler (by decide)) hq
      exact ⟨t, execTableHandler_respond rfl hdu hs (tableResponse_external hhandler ▸ ht), hr⟩
    · exact respOf_emptyPing ▸ addedPing_respondsOnce rfl hdu hs hhandler hframe (by simp [pingReply])
    · have hreply : pingReply p = Config.pingEcho p := by simp [pingReply, hne]
      exact hreply ▸ addedPing_respondsOnce rfl hdu hs hhandler hframe (hreply ▸ hq)
    · obtain ⟨t, ht, hr⟩ := keypadResponse_respondsOnce rfl hdu hs (keypadRuns_eq_true hdu hhandler)
      exact ⟨t, execTableHandler_respond rfl hdu hs (tableResponse_keypad hhandler ▸ ht), hr⟩
  -- Taking the input out of the schedule writes the model's own fields alone, so the frame of `hr` is also that of `s`.
  obtain ⟨t, hexec, hr⟩ := hresponds
  obtain ⟨hfault, hconfig, hagent, hdraw, hpending⟩ := hr.control
  exact ⟨t, hstep.trans hexec, hr.puts, hr.sent, hr.keys, hr.crc, hr.staging, hr.stats, hr.transport, hr.invocations, hr.result,
    hfault.trans hf, hconfig, hagent, hdraw, hpending⟩

end Sys2Proof.Machine
end

section
/-! SUPPORT. The invariant of the storages, latches and control state: every update keeps it, so every effect of an instruction and every step
does. -/

namespace Sys2Proof.Machine

/-! ### Written cells stay written -/

theorem Cells.read_write_isSome {m : Cells} {j : Nat} (h : (m.read j).isSome = true) (i : Nat) (v : Byte) :
    ((m.write i v).read j).isSome = true := by
  by_cases hj : j = i
  · simp [hj]
  · rwa [Cells.read_write_other _ _ _ _ hj]

/-- No operation of the block takes a byte out of a cell (R23, R26). -/
theorem Cells.read_writeFrom_isSome {j : Nat} (size : Nat) (bytes : List Byte) : ∀ {m : Cells} (i : Nat),
    (m.read j).isSome = true → ((m.writeFrom size i bytes).read j).isSome = true := by
  induction bytes with
  | nil => exact fun _ h => h
  | cons b rest ih => exact fun _ h => ih _ (Cells.read_write_isSome h _ _)

/-! ### Well-formed rings (R21, R23) -/

theorem Ring.wf_iff {x : Ring} :
    x.wf = true ↔ x.store.wf Config.storeSize = true ∧ ∀ i < x.used, (x.store.read (x.cell i)).isSome = true := by
  simp [Ring.wf]

theorem Ring.reset_wf : Ring.reset.wf = true := rfl

theorem Ring.init_wf {x : Ring} (h : x.wf = true) : x.init.wf = true :=
  Ring.wf_iff.2 ⟨(Ring.wf_iff.1 h).1, by simp⟩

theorem Ring.advance_cell (x : Ring) (n i : Nat) : (x.advance n).cell i = x.cell (n + i) := by
  simp only [Ring.cell, Ring.advance, Fin.ofNat, Config.storeSize]; omega

/-- The bytes left after a get were held before it (R104). -/
theorem Ring.advance_wf {x : Ring} {n : Nat} (h : x.wf = true) (hn : n ≤ x.used) : (x.advance n).wf = true := by
  obtain ⟨hstore, hheld⟩ := Ring.wf_iff.1 h
  refine Ring.wf_iff.2 ⟨hstore, fun i hi => ?_⟩
  rw [Ring.advance_used _ _ hn] at hi
  rw [Ring.advance_cell]
  exact hheld _ (by omega)

/-- An overwriting put writes every cell of its span (R101). -/
theorem Ring.overwrite_written (x : Ring) {b : List Byte} (hb : 128 ≤ b.length) {i : Nat} (hi : i < 128) :
    ((x.overwrite b).store.read ((x.overwrite b).cell i)).isSome = true := by
  have hl : (lastBytes Config.ringCapacity b).length = 128 := by
    simp only [lastBytes, List.length_drop, Config.ringCapacity]; omega
  have hread := Cells.read_writeFrom Config.storeSize (lastBytes Config.ringCapacity b) x.store 0 i (by rw [hl]; decide) (by omega)
  rw [Nat.zero_add] at hread
  simp [Ring.cell, Ring.overwrite, hread]

/-- An appending put writes the cells behind those already written (R101). -/
theorem Ring.append_written {x : Ring} (hheld : ∀ i < x.used, (x.store.read (x.cell i)).isSome = true) {b : List Byte}
    (hb : b.length < 128) {j : Nat} (hj : j < x.used + b.length) : ((x.append b).store.read (x.cell j)).isSome = true := by
  by_cases hju : j < x.used
  · exact Cells.read_writeFrom_isSome _ _ _ (hheld j hju)
  · have hcell : x.cell j = (x.tail.val + (j - x.used)) % Config.storeSize := by
      have := x.head_lt; have := x.tail_lt
      simp only [Ring.cell, Ring.used, Config.storeSize] at *; omega
    have hread := Cells.read_writeFrom Config.storeSize b x.store x.tail.val (j - x.used)
      (by simp only [Config.storeSize]; omega) (by omega)
    simp [Ring.append, hcell, hread]

theorem Ring.put_wf {x : Ring} (h : x.wf = true) (b : List Byte) : (x.put b).wf = true := by
  obtain ⟨hstore, hheld⟩ := Ring.wf_iff.1 h
  refine Ring.wf_iff.2 ⟨Ring.wf_store_put x b hstore, fun i hi => ?_⟩
  rw [Ring.put_used] at hi
  unfold Ring.put
  split
  · next hb => exact Ring.overwrite_written x hb (by omega)
  · next hb =>
    rw [Ring.append_cell]
    exact Ring.append_written hheld (by simpa using hb) (by omega)

/-! ### Well-formed staging buffers (R26) -/

theorem Staging.wf_iff {x : Staging} : x.wf = true ↔
    x.fill ≤ Config.stageCap ∧ x.cells.wf Config.stageCap = true ∧ ∀ i < x.fill, (x.cells.read i).isSome = true := by
  simp [Staging.wf, and_assoc]

theorem Staging.reset_wf : Staging.reset.wf = true := rfl

theorem Staging.clear_wf {x : Staging} (h : x.wf = true) : x.clear.wf = true := by
  obtain ⟨-, hcells, -⟩ := Staging.wf_iff.1 h
  exact Staging.wf_iff.2 ⟨Nat.zero_le _, hcells, by simp⟩

/-- Resync-by-one writes written cells and drops the last (R147). -/
theorem Staging.resync_wf {x : Staging} (h : x.wf = true) (sp : Space) : (x.resync sp).wf = true := by
  obtain ⟨hfill, hcells, hstaged⟩ := Staging.wf_iff.1 h
  refine Staging.wf_iff.2 ⟨by simp; omega, Staging.wf_cells_resync sp x hcells, fun i hi => ?_⟩
  rw [Staging.resync_fill] at hi
  exact Cells.read_writeFrom_isSome _ _ _ (hstaged i (by omega))

/-- DEC.FILL adds no more than there is room for (R140). -/
theorem Staging.append_wf {x : Staging} (h : x.wf = true) {new : List Byte} (hn : new.length ≤ Config.stageCap - x.fill) :
    (x.append new).wf = true := by
  obtain ⟨hfill, hcells, hstaged⟩ := Staging.wf_iff.1 h
  refine Staging.wf_iff.2 ⟨by simp; omega, Staging.wf_cells_append x new hcells, fun i hi => ?_⟩
  rw [Staging.append_fill] at hi
  by_cases hif : i < x.fill
  · exact Cells.read_writeFrom_isSome _ _ _ (hstaged i hif)
  · have hread := Cells.read_writeFrom Config.stageCap new x.cells x.fill (i - x.fill) (by omega) (by omega)
    rw [Nat.mod_eq_of_lt (by omega), Nat.add_sub_cancel' (by omega)] at hread
    simp [Staging.append, hread]

/-! ### Well-formed latches and control states (R29, R30, R214) -/

theorem Latch.clear_wf (m : Nat) : Latch.wf m ⟨false, []⟩ = true := rfl

theorem Latch.set_wf {m : Nat} {out : List Byte} (h : 0 < out.length) (hm : out.length ≤ m) : Latch.wf m ⟨true, out⟩ = true := by
  simp [Latch.wf, hm, List.ne_nil_of_length_pos h]

/-- A send leaves the frame alone and is the handler's first (R172). -/
theorem noteSend_wf {d e : DecState} {ch : Channel} (hd : d.wf = true) (h : noteSend d ch = .ok e) : e.wf = true := by
  obtain ⟨rfl, h'⟩ | ⟨run, rfl, -, -, h'⟩ | ⟨run, rfl, -, h'⟩ := noteSend_cases d ch <;> rw [h'] at h <;> cases h
  · rfl
  · simp only [DecState.wf, Bool.and_eq_true, decide_eq_true_eq] at hd ⊢
    obtain ⟨hframe, -⟩ := hd
    exact ⟨hframe, le_rfl⟩

/-- What a valid frame has passed: its size is in the range of its entry, and it is staged whole (R149, R150). -/
theorem judge_valid {table : List Descriptor} {bytes : List Byte} {n : Nat} (h : judge table bytes = .valid n) :
    n = (byteAt bytes 1).toNat ∧ n ≤ 252 ∧ n + 4 ≤ bytes.length := by
  unfold judge at h
  dsimp only at h
  split at h
  · cases h
  · next d _ =>
    split at h
    · cases h
    · next hacc =>
      split at h
      · cases h
      · next hlen =>
        split at h <;> cases h
        have := (accepts_iff d _).1 (by simpa using hacc)
        simp only [Config.minFrame] at hlen
        exact ⟨rfl, by omega, by omega⟩

theorem byteAt_take {bytes : List Byte} {i k : Nat} (h : i < k) : byteAt (bytes.take k) i = byteAt bytes i := by
  simp [byteAt, List.getD_eq_getElem?_getD, h]

/-- The record of a dispatch has the shape of R30. -/
theorem dispatched_wf {table : List Descriptor} {bytes : List Byte} {n : Nat} (ch : Channel)
    (h : judge table bytes = .valid n) :
    (DecState.inHandler ⟨ch, byteAt bytes 0, bytes.take (Config.headerSize + n), Config.headerSize + n, 0⟩).wf = true := by
  obtain ⟨hn, hmax, hlen⟩ := judge_valid h
  have h0 : byteAt (bytes.take (Config.headerSize + n)) 0 = byteAt bytes 0 := byteAt_take (by simp [Config.headerSize])
  have h1 : byteAt (bytes.take (Config.headerSize + n)) 1 = byteAt bytes 1 := byteAt_take (by simp [Config.headerSize]; omega)
  simp only [DecState.wf, h0, h1, ← hn, List.length_take, Config.headerSize, Config.payloadMax]
  simp; omega

/-! ### The state -/

theorem State.wf_iff {s : State} : s.wf = true ↔
    (∀ r, (s.ring r).wf = true) ∧ (∀ c, (s.staging c).wf = true) ∧ (∀ c, (s.latch c).wf s.config.txChunk = true) ∧
      s.decState.wf = true := by
  constructor
  · intro h
    simp only [State.wf, Bool.and_eq_true] at h
    obtain ⟨⟨⟨⟨⟨⟨⟨⟨hi0, ho0⟩, hi1⟩, ho1⟩, hs0⟩, hs1⟩, ht0⟩, ht1⟩, hd⟩ := h
    refine ⟨?_, ?_, ?_, hd⟩
    · rintro ((_ | _) | (_ | _)) <;> assumption
    · rintro (_ | _) <;> assumption
    · rintro (_ | _) <;> assumption
  · rintro ⟨hr, hs, hl, hd⟩
    simp only [State.wf, Bool.and_eq_true]
    exact ⟨⟨⟨⟨⟨⟨⟨⟨hr (.inb .ch0), hr (.outb .ch0)⟩, hr (.inb .ch1)⟩, hr (.outb .ch1)⟩, hs .ch0⟩, hs .ch1⟩, hl .ch0⟩, hl .ch1⟩, hd⟩

section Updates

variable (s : State)

@[simp] theorem finish_wf (r : Result) : (s.finish r).wf = s.wf := rfl
@[simp] theorem count_wf (n : StatName) : (s.count n).wf = s.wf := rfl
@[simp] theorem record_wf (e : Event) : (s.record e).wf = s.wf := rfl
@[simp] theorem setCrc_wf (acc : Word) (valid : Bool) : (s.setCrc acc valid).wf = s.wf := rfl
@[simp] theorem setKeys_wf (k : Byte) : (s.setKeys k).wf = s.wf := rfl
@[simp] theorem send_wf (ch : Channel) (out : List Byte) : (s.send ch out).wf = s.wf := by cases ch <;> rfl
@[simp] theorem raise_wf (r : FaultReason) : (s.raise r).wf = s.wf := by unfold State.raise; split <;> rfl

variable {s} (h : s.wf = true)

include h

theorem wf_ring (r : RingId) : (s.ring r).wf = true := (State.wf_iff.1 h).1 r

theorem wf_staging (ch : Channel) : (s.staging ch).wf = true := (State.wf_iff.1 h).2.1 ch

theorem wf_control : s.decState.wf = true := (State.wf_iff.1 h).2.2.2

theorem setRing_wf {r : RingId} {x : Ring} (hx : x.wf = true) : (s.setRing r x).wf = true := by
  obtain ⟨hr, hs, hl, hd⟩ := State.wf_iff.1 h
  refine State.wf_iff.2 ⟨fun q => ?_, by simpa using hs, by simpa using hl, by simpa using hd⟩
  rw [setRing_ring]
  split
  · exact hx
  · exact hr q

theorem setStaging_wf {ch : Channel} {x : Staging} (hx : x.wf = true) : (s.setStaging ch x).wf = true := by
  obtain ⟨hr, hs, hl, hd⟩ := State.wf_iff.1 h
  refine State.wf_iff.2 ⟨by simpa using hr, fun c => ?_, by simpa using hl, by simpa using hd⟩
  by_cases hc : c = ch
  · simpa [hc] using hx
  · rw [setStaging_staging_other _ _ _ _ hc]; exact hs c

theorem setLatch_wf {ch : Channel} {x : Latch} (hx : x.wf s.config.txChunk = true) : (s.setLatch ch x).wf = true := by
  obtain ⟨hr, hs, hl, hd⟩ := State.wf_iff.1 h
  refine State.wf_iff.2 ⟨by simpa using hr, by simpa using hs, fun c => ?_, by simpa using hd⟩
  rw [setLatch_config]
  by_cases hc : c = ch
  · simpa [hc] using hx
  · rw [setLatch_latch_other _ _ _ _ hc]; exact hl c

theorem setControl_wf {d : DecState} (hd : d.wf = true) : (s.setControl d).wf = true := by
  obtain ⟨hr, hs, hl, -⟩ := State.wf_iff.1 h
  exact State.wf_iff.2 ⟨by simpa using hr, by simpa using hs, by simpa using hl, hd⟩

theorem put_wf (r : RingId) (bytes : List Byte) : (s.put r bytes).wf = true := by
  have hput := setRing_wf h (r := r) (Ring.put_wf (wf_ring h r) bytes)
  unfold State.put
  dsimp only
  split
  · simpa using hput
  · exact hput

theorem consume_wf (r : RingId) (max : Nat) : (s.consume r max).wf = true :=
  setRing_wf h (Ring.advance_wf (wf_ring h r) (min_le_right _ _))

theorem reject_wf (ch : Channel) (n : StatName) (e : Event) : (s.reject ch n e).wf = true :=
  setStaging_wf (by simpa using h) (Staging.resync_wf (by simpa using wf_staging h ch) _)

/-- Entering a handler writes the control state alone of what is well-formed (R152). -/
theorem dispatch_wf {ch : Channel} {n : Nat} (hj : judge (tableOf s.config) (s.staged ch) = .valid n) :
    ((s.count .framesAttempted).dispatch ch (s.staged ch) n).wf = true :=
  setControl_wf h (dispatched_wf ch hj)

end Updates

/-! ### Every step -/

theorem passLoop_wf {s : State} (h : s.wf = true) (ch : Channel) (fuel : Nat) : (passLoop ch fuel s).wf = true := by
  refine passLoop_induction (P := fun u => u.wf = true) (Q := fun u => u.wf = true) ?_ ?_ ?_ fuel s h
  · intro u t hu ha
    obtain ⟨-, n, e, -, rfl⟩ := attempt_again ha
    exact reject_wf (by simpa using hu) ch n e
  · intro u t hu ha
    obtain ⟨-, rfl⟩ | ⟨-, ⟨id, req, -, rfl⟩ | ⟨n, hj, rfl⟩⟩ := attempt_done ha
    · simpa using hu
    · simpa using hu
    · simpa using dispatch_wf hu hj
  · exact fun u hu => hu

theorem handlerReturn_wf {s t : State} (h : s.wf = true) (hr : handlerReturn s = .ok t) : t.wf = true := by
  obtain ⟨-, run, -, -, rfl⟩ := handlerReturn_ok hr
  have hclear := setStaging_wf h (ch := run.ch) (Staging.clear_wf (wf_staging h run.ch))
  simpa using setControl_wf (by simpa using hclear) rfl

theorem encSend_wf {s t : State} {ch : Channel} {bytes : List Byte} {set40 : Bool} (h : s.wf = true)
    (hs : encSend s ch bytes set40 = .ok t) : t.wf = true := by
  obtain ⟨-, -, -, d, hd, rfl⟩ := encSend_ok hs
  have hcontrol := setControl_wf (s := s.setKeys (s.polledKeys bytes)) (by simpa using h) (noteSend_wf (wf_control h) hd)
  simpa using put_wf hcontrol _ _

theorem effect_wf {i : Instr} {s t : State} (h : s.wf = true) (he : Effect i s t) : t.wf = true := by
  cases he
  case init r _ _ => simpa using setRing_wf h (Ring.init_wf (wf_ring h r))
  case put r bytes _ _ => simpa using put_wf h r bytes
  case get r max _ _ _ => simpa using consume_wf h r max
  case fill ch space _ _ hspace =>
    have hroom : (s.front (.inb ch) space).length ≤ Config.stageCap - (s.staging ch).fill := by
      rw [front_length, ← hspace]; exact min_le_left _ _
    simpa using setStaging_wf (consume_wf h _ _) (Staging.append_wf (wf_staging h ch) hroom)
  case pass ch _ _ => exact passLoop_wf h ch _
  case returns hr => exact handlerReturn_wf h hr
  case sends hs => exact encSend_wf h hs
  case start ch out _ _ _ hout hpos =>
    have hchunk : out.length ≤ s.config.txChunk := by rw [hout, front_length]; exact min_le_left _ _
    simpa using setLatch_wf (consume_wf h (.outb ch) s.config.txChunk) (ch := ch) (by simpa using Latch.set_wf hpos hchunk)
  case startEmpty ch _ _ => simpa using consume_wf h (.outb ch) s.config.txChunk
  case done ch _ _ => simpa using setLatch_wf h (ch := ch) (Latch.clear_wf _)
  all_goals simpa using h

/-! ### What a step can do (R8, R9, R237) -/

/-- `u` is `s` with an input taken out of the schedule: only the model's own fields differ (log entries 1, 8, 20). -/
def Issued (s u : State) : Prop := ∃ ag d rest, u = { s with agent := ag, draw := d, pending := rest }

theorem fetch_run_issued {s u : State} {i : Instr} (h : fetch s = .run i u) : Issued s u := by
  obtain ⟨-, -, ⟨ag, r, rest, -, -, rfl⟩ | ⟨d, rest, run, extra, -, -, -, rfl⟩⟩ := fetch_run h
  · exact ⟨ag, s.draw, rest, rfl⟩
  · exact ⟨.main, d, rest, rfl⟩

theorem fetch_external_issued {s u : State} (h : fetch s = .external u) : Issued s u := by
  obtain ⟨-, d, rest, -, rfl⟩ := fetch_external h
  exact ⟨.main, d, rest, rfl⟩

/-- The reset event is fetched from the front of the schedule alone (R263). -/
theorem fetch_reset {s : State} {rest : List Input} (h : fetch s = .reset rest) : s.pending = .reset :: rest := by
  unfold fetch at h
  split at h
  · cases h
  · split at h
    · cases h
    · next rest' hp => cases h; exact hp
    · split at h
      · cases h
      · unfold fetchRequest at h; split at h <;> cases h
    · split at h
      · cases h
      · unfold fetchHandler at h
        split at h
        · cases h
        · split at h <;> cases h

/-- The handler of an added entry does nothing that an instruction other than DEC.PASS cannot do. -/
theorem execTableHandler_effect {i : Instr} {s t : State} (hi : ∀ ch, i ≠ .decPass ch) (h : execTableHandler s = .next t) :
    Effect i s t := by
  obtain ⟨r, rfl⟩ | hr | ⟨ch, bytes, set40, hs⟩ := execTableHandler_next h
  · exact .raised r
  · exact .returns t hi hr
  · exact .sends t ch bytes set40 hi hs

/-- Every step that answers a next state: nothing, the reset event, or an effect, which is that of the fetched instruction or, for the
handler of an added entry, one that HND.RET could have. -/
theorem step_effect {s t : State} (h : step s = .next t) :
    t = s ∨ (∃ rest, s.pending = .reset :: rest ∧ t = s.resetEvent rest) ∨
    ∃ i u, Issued s u ∧ s.faulted = none ∧ Effect i u t ∧ (fetch s = .run i u ∨ ∃ status, i = .hndRet status) := by
  obtain ⟨-, rfl⟩ | ⟨rest, hf, rfl⟩ | ⟨i, u, hf, hx⟩ | ⟨u, hf, hx⟩ := step_next h
  · exact .inl rfl
  · exact .inr (.inl ⟨rest, fetch_reset hf, rfl⟩)
  · exact .inr (.inr ⟨i, u, fetch_run_issued hf, (fetch_run hf).1, exec_effect hx, .inl hf⟩)
  · exact .inr (.inr ⟨.hndRet 0, u, fetch_external_issued hf, (fetch_external hf).1, execTableHandler_effect (by simp) hx,
      .inr ⟨0, rfl⟩⟩)

theorem Issued.wf_eq {s u : State} (h : Issued s u) : u.wf = s.wf := by
  obtain ⟨ag, d, rest, rfl⟩ := h
  rfl

theorem resetEvent_wf (s : State) (rest : List Input) : (s.resetEvent rest).wf = true := by
  refine State.wf_iff.2 ⟨fun r => ?_, fun c => ?_, fun c => ?_, rfl⟩
  · rcases r with (_ | _) | (_ | _) <;> exact Ring.reset_wf
  · cases c <;> exact Staging.reset_wf
  · cases c <;> exact Latch.clear_wf _

/-- Settles O55: every update that an effect is made of keeps the storages, latches and control state well-formed. -/
theorem stepKeepsStateWellFormed : Obligations.StepKeepsStateWellFormed := by
  intro s t hwf h
  obtain rfl | ⟨rest, -, rfl⟩ | ⟨i, u, hu, -, he, -⟩ := step_effect h
  · exact hwf
  · exact resetEvent_wf s rest
  · exact effect_wf (hu.wf_eq.trans hwf) he

end Sys2Proof.Machine
end

section
/-! SUPPORT. Who writes `last_keys`, the CRC register, the counters and the fault mark: a case analysis of `Effect` for each. -/

namespace Sys2Proof.Machine

/-! ### What a pass leaves alone -/

/-- A pass writes neither the CRC engine, `last_keys`, the fault mark, the configuration nor `dispatched_completed`. -/
def PassFrame (s t : State) : Prop :=
  SameCrc s t ∧ SameKeys s t ∧ SameControl s t ∧ t.stats.dispatchedCompleted = s.stats.dispatchedCompleted

theorem bump_completed_other {n : StatName} (h : n ≠ .dispatchedCompleted) (x : Stats) :
    (x.bump n).dispatchedCompleted = x.dispatchedCompleted := by
  cases n
  case dispatchedCompleted => exact absurd rfl h
  all_goals rfl

theorem passLoop_frame (ch : Channel) (fuel : Nat) (s : State) : PassFrame s (passLoop ch fuel s) := by
  refine passLoop_induction (P := PassFrame s) (Q := PassFrame s) ?_ ?_ ?_ fuel s ?_
  · intro u t hu ha
    obtain ⟨-, n, e, hn, rfl⟩ := attempt_again ha
    have hn' : n ≠ .dispatchedCompleted := by rintro rfl; simp at hn
    simpa [PassFrame, SameCrc, SameKeys, SameControl, State.reject, bump_completed_other hn', bump_completed_other] using hu
  · intro u t hu ha
    obtain ⟨-, rfl⟩ | ⟨-, ⟨id, req, -, rfl⟩ | ⟨n, -, rfl⟩⟩ := attempt_done ha <;>
      simpa [PassFrame, SameCrc, SameKeys, SameControl, bump_completed_other] using hu
  · intro u hu
    simpa [PassFrame, SameCrc, SameKeys, SameControl] using hu
  · simp [PassFrame, SameCrc, SameKeys, SameControl]

/-! ### Who writes `last_keys` and the CRC register (R24, R28, R127) -/

/-- From `s` to `t`, `last_keys` stays or the running read-keypad handler makes its one send (R28, R188). -/
def KeysKeptOrPolled (s t : State) : Prop :=
  t.lastKeys = s.lastKeys ∨
    ∃ h, s.decState = .inHandler h ∧ handlerOf (tableOf s.config) h.id = some .readKeypad ∧ h.sends = 0 ∧
      t.decState = .inHandler { h with sends := 1 }

theorem keypadRuns_iff {s : State} : s.keypadRuns = true ↔
    ∃ h, s.decState = .inHandler h ∧ handlerOf (tableOf s.config) h.id = some .readKeypad := by
  unfold State.keypadRuns
  split <;> simp_all

theorem noteSend_handler_ok {h : HandlerRun} {ch : Channel} {d : DecState} (hd : noteSend (.inHandler h) ch = .ok d) :
    h.sends = 0 ∧ d = .inHandler { h with sends := 1 } := by
  obtain ⟨hidle, -⟩ | ⟨run, hrun, -, hs, hok⟩ | ⟨run, -, -, herr⟩ := noteSend_cases (.inHandler h) ch
  · cases hidle
  · cases hrun
    exact ⟨hs, (Except.ok.inj (hok.symm.trans hd)).symm⟩
  · rw [herr] at hd
    cases hd

theorem encSend_keys {s t : State} {ch : Channel} {bytes : List Byte} {set40 : Bool} (h : encSend s ch bytes set40 = .ok t) :
    KeysKeptOrPolled s t := by
  obtain ⟨-, -, -, d, hd, rfl⟩ := encSend_ok h
  cases hk : s.keypadRuns
  · exact .inl (by simpa using polledKeys_other hk bytes)
  · obtain ⟨run, hrun, hh⟩ := keypadRuns_iff.1 hk
    rw [hrun] at hd
    obtain ⟨hs, rfl⟩ := noteSend_handler_ok hd
    exact .inr ⟨run, hrun, hh, hs, by simp⟩

theorem encSend_crc {s t : State} {ch : Channel} {bytes : List Byte} {set40 : Bool} (h : encSend s ch bytes set40 = .ok t) :
    SameCrc s t := by
  obtain ⟨-, -, -, d, -, rfl⟩ := encSend_ok h
  exact ⟨by simp, by simp⟩

theorem effect_keys {i : Instr} {s t : State} (he : Effect i s t) : KeysKeptOrPolled s t := by
  cases he
  case pass ch _ _ =>
    obtain ⟨-, hkeys, -⟩ := passLoop_frame ch (s.staging ch).fill s
    exact .inl hkeys
  case returns hr =>
    obtain ⟨-, run, -, -, rfl⟩ := handlerReturn_ok hr
    exact .inl (by simp)
  case sends hs => exact encSend_keys hs
  all_goals exact .inl (by simp)

theorem effect_crc {i : Instr} {s t : State} (he : Effect i s t) (hinit : i ≠ .crcInit) :
    ((∀ b, i ≠ .crcStep b) → t.crcAcc = s.crcAcc) ∧ t.crcValid = s.crcValid := by
  cases he
  case crcInit hi => exact absurd hi hinit
  case crcStep b hi _ => exact ⟨fun hstep => absurd hi (hstep b), by simp⟩
  case pass ch _ _ =>
    obtain ⟨⟨hacc, hvalid⟩, -⟩ := passLoop_frame ch (s.staging ch).fill s
    exact ⟨fun _ => hacc, hvalid⟩
  case returns hr =>
    obtain ⟨-, run, -, -, rfl⟩ := handlerReturn_ok hr
    simp
  case sends hs =>
    obtain ⟨hacc, hvalid⟩ := encSend_crc hs
    exact ⟨fun _ => hacc, hvalid⟩
  all_goals simp

/-- Settles O43: of all effects only a send in a read-keypad handler writes `last_keys`, and only CRC.INIT and CRC.STEP the register. -/
theorem keysAndCrcHaveOneWriter : Obligations.KeysAndCrcHaveOneWriter := by
  refine fun s t => ⟨fun i h => ?_, fun h hreset => ?_⟩
  · have he := exec_effect h
    exact ⟨effect_keys he, fun hinit => (effect_crc he hinit).1, fun hinit => (effect_crc he hinit).2⟩
  · obtain rfl | ⟨rest, hp, -⟩ | ⟨i, u, ⟨ag, d, rest, rfl⟩, -, he, hi⟩ := step_effect h
    · exact ⟨.inl rfl, fun _ _ => rfl, fun _ => rfl⟩
    · exact absurd hp (hreset rest)
    -- The effect starts in the issued state, which differs from `s` in the model's own fields alone: `(e :)` reads `e` as of `s`.
    · have hne {j : Instr} (hj : ∀ u, fetch s ≠ .run j u) (hret : ∀ status, j ≠ .hndRet status) : i ≠ j := by
        rintro rfl
        obtain hf | ⟨status, hs⟩ := hi
        · exact hj _ hf
        · exact hret status hs
      have hcrc (hinit : ∀ u, fetch s ≠ .run .crcInit u) := effect_crc he (hne hinit (by simp))
      exact ⟨(effect_keys he :), fun hinit hstep => (hcrc hinit).1 fun b => hne (hstep b) (by simp), fun hinit => (hcrc hinit).2⟩

/-! ### Who writes the counters (R25, R27) -/

theorem effect_config {i : Instr} {s t : State} (he : Effect i s t) : t.config = s.config := by
  cases he
  case pass ch _ _ =>
    obtain ⟨-, -, ⟨-, hconfig, -⟩, -⟩ := passLoop_frame ch (s.staging ch).fill s
    exact hconfig
  case returns hr =>
    obtain ⟨-, run, -, -, rfl⟩ := handlerReturn_ok hr
    simp
  case sends hs =>
    obtain ⟨-, -, -, d, -, rfl⟩ := encSend_ok hs
    simp
  all_goals simp

/-- The counters stay, or a return counts itself (R174). -/
def StatsKeptOrReturned (s t : State) : Prop :=
  t.stats = s.stats ∨ (t.result = .commandProcessed ∧ t.stats = s.stats.bump .dispatchedCompleted)

theorem effect_stats {i : Instr} {s t : State} (he : Effect i s t) (hi : ∀ ch, i ≠ .decPass ch) : StatsKeptOrReturned s t := by
  cases he
  case pass ch h _ => exact absurd h (hi ch)
  case returns hr =>
    obtain ⟨-, run, -, -, rfl⟩ := handlerReturn_ok hr
    exact .inr ⟨by simp, by simp⟩
  case sends hs =>
    obtain ⟨-, -, -, d, -, rfl⟩ := encSend_ok hs
    exact .inl (by simp)
  all_goals exact .inl (by simp)

theorem effect_pass_completed {ch : Channel} {s t : State} (he : Effect (.decPass ch) s t) :
    t.stats.dispatchedCompleted = s.stats.dispatchedCompleted := by
  cases he
  case pass c _ _ =>
    obtain ⟨-, -, -, hcompleted⟩ := passLoop_frame c (s.staging c).fill s
    exact hcompleted
  case returns hi _ => exact absurd rfl (hi ch)
  case sends hi _ => exact absurd rfl (hi ch)
  all_goals simp

/-- Settles O44: the counters are written by a pass and by a return alone, the configuration by nothing. -/
theorem countersHaveTheirWriters : Obligations.CountersHaveTheirWriters := by
  refine fun s t => ⟨fun i h => ?_, fun h => ?_⟩
  · have he := exec_effect h
    exact ⟨effect_config he, effect_stats he, fun ch hi => effect_pass_completed (hi ▸ he)⟩
  · have hpass (ch : Channel) (u : State) (hf : fetch s = .run (.decPass ch) u) :
        t.stats.dispatchedCompleted = s.stats.dispatchedCompleted := by
      obtain ⟨ag, d, rest, rfl⟩ := fetch_run_issued hf
      exact (effect_pass_completed (exec_effect ((step_run hf).symm.trans h)) :)
    obtain rfl | ⟨rest, hp, rfl⟩ | ⟨i, u, ⟨ag, d, rest, rfl⟩, -, he, hi⟩ := step_effect h
    · exact ⟨rfl, fun _ _ => .inl rfl, hpass⟩
    · exact ⟨rfl, fun hreset => absurd hp (hreset rest), hpass⟩
    · refine ⟨(effect_config he :), fun _ hne => ?_, hpass⟩
      have hi' (ch : Channel) (hch : i = .decPass ch) : False := by
        obtain hf | ⟨status, hs⟩ := hi
        · exact hne ch _ (hch ▸ hf)
        · cases hs.symm.trans hch
      exact (effect_stats he hi' :)

/-! ### The fault mark (R31, R236) -/

theorem effect_fault {i : Instr} {s t : State} (he : Effect i s t) : (∃ r, t = s.raise r) ∨ t.faulted = s.faulted := by
  cases he
  case raised r => exact .inl ⟨r, rfl⟩
  case pass ch _ _ =>
    obtain ⟨-, -, ⟨hfault, -⟩, -⟩ := passLoop_frame ch (s.staging ch).fill s
    exact .inr hfault
  case returns hr =>
    obtain ⟨-, run, -, -, rfl⟩ := handlerReturn_ok hr
    exact .inr (by simp)
  case sends hs =>
    obtain ⟨-, -, -, d, -, rfl⟩ := encSend_ok hs
    exact .inr (by simp)
  all_goals exact .inr (by simp)

/-- An effect that sets the mark writes nothing else (R236). -/
theorem effect_marks {i : Instr} {s t : State} {r : FaultReason} (he : Effect i s t) (hs : s.faulted = none)
    (ht : t.faulted = some r) : t = { s with faulted := some r, result := .none } := by
  obtain ⟨x, rfl⟩ | hfault := effect_fault he
  · have hx : x = r := by simpa [raise_faulted, hs] using ht
    simp [raise_eq_marked, marked, hs, hx]
  · simp [hfault, hs] at ht

/-- A mark once set keeps its reason (R31). -/
theorem effect_keeps_mark {i : Instr} {s t : State} {r : FaultReason} (he : Effect i s t) (hs : s.faulted = some r) :
    t.faulted = some r := by
  obtain ⟨x, rfl⟩ | hfault := effect_fault he
  · simp [raise_faulted, hs]
  · exact hfault.trans hs

/-- Settles O47: the one effect that writes the mark is the raised fault, which writes nothing else. -/
theorem faultWritesOnlyTheMark : Obligations.FaultWritesOnlyTheMark := by
  refine fun s t => ⟨fun i h => ?_, fun h hreset => ?_⟩
  · have he := exec_effect h
    exact ⟨fun r => effect_marks he, fun r => effect_keeps_mark he⟩
  · obtain rfl | ⟨rest, hp, -⟩ | ⟨i, u, ⟨ag, d, rest, rfl⟩, -, he, -⟩ := step_effect h
    · exact ⟨fun r hnone hsome => absurd (hnone.symm.trans hsome) (by simp), fun _ hs => hs⟩
    · exact absurd hp (hreset rest)
    · refine ⟨fun r hs ht => ?_, fun r hs => effect_keeps_mark he hs⟩
      obtain rfl := effect_marks he hs ht
      rfl

end Sys2Proof.Machine
end

section
/-! SUPPORT. The encoder's two instructions, the read-keypad response, the ring and CRC operations that are refused, the pure reads, and the
reset state. -/

namespace Sys2Proof.Machine

/-! ### The encoder (R190 to R193) -/

/-- The contract allows a send in Idle, and the first one of a handler on its own channel (R172). -/
theorem noteSend_allowed {d : DecState} {ch : Channel} (hd : ∀ h, d = .inHandler h → h.ch = ch ∧ h.sends = 0) :
    ∃ e, noteSend d ch = .ok e ∧ (d = .idle → e = .idle) ∧ ∀ h, d = .inHandler h → e = .inHandler { h with sends := 1 } := by
  cases d with
  | idle => exact ⟨.idle, rfl, fun _ => rfl, by simp⟩
  | inHandler run =>
    obtain ⟨rfl, hs⟩ := hd run rfl
    exact ⟨.inHandler { run with sends := 1 }, by simp [noteSend, hs], by simp, by simp⟩

/-- Settles O31: both instructions are one send, of the frame that `set40` tells. -/
theorem encoderPutsFrame : Obligations.EncoderPutsFrame := by
  intro s ch b0 b1 p ha hp hallowed i f hi
  obtain ⟨set40, hexec, rfl⟩ : ∃ set40, exec i s = settle s (encSend s ch (b0 :: b1 :: p) set40) ∧
      f = if set40 then respOf b0 p else frameOf b0 p := by
    obtain ⟨rfl, rfl⟩ | ⟨rfl, rfl⟩ := hi
    · exact ⟨false, rfl, rfl⟩
    · exact ⟨true, rfl, rfl⟩
  obtain ⟨d, hd, hidle, hhandler⟩ := noteSend_allowed hallowed
  have hsend := encSend_eq (bytes := b0 :: b1 :: p) (set40 := set40) ha (by simp) (by simp; omega) hd
  rw [withChecksum_encoderBuffer] at hsend
  refine ⟨_, by rw [hexec, hsend, settle_ok], by simp, by split <;> simp, send_putsInto .., by simpa using hidle,
    by simpa using hhandler, fun hk => ?_, fun hk => ?_, by simp, ⟨by simp, by simp⟩, fun _ => by simp, by simp [SameStats],
    ⟨fun _ => by simp, fun _ => by simp⟩, ⟨by simp, by simp, by simp, by simp, by simp⟩⟩
  · simpa using polledKeys_other hk (b0 :: b1 :: p)
  · simpa using polledKeys_keypad hk b0 b1 p

/-! ### The read-keypad response (R188) -/

theorem pressedKeys_getLsbD (last now : Byte) (k : Nat) :
    (pressedKeys last now).getLsbD k = (now.getLsbD k && !last.getLsbD k) := by
  by_cases hk : k < 8
  · simp [pressedKeys, hk, Bool.and_comm]
  · simp [pressedKeys, BitVec.getLsbD_of_ge _ _ (Nat.le_of_not_lt hk)]

theorem releasedKeys_getLsbD (last now : Byte) (k : Nat) :
    (releasedKeys last now).getLsbD k = (last.getLsbD k && !now.getLsbD k) := by
  by_cases hk : k < 8
  · simp [releasedKeys, hk]
  · simp [releasedKeys, BitVec.getLsbD_of_ge _ _ (Nat.le_of_not_lt hk)]

/-- No key is both up and down at one poll. -/
theorem pressedKeys_and_releasedKeys (last now : Byte) : pressedKeys last now &&& releasedKeys last now = 0#8 := by
  apply BitVec.eq_of_getLsbD_eq
  intro k _
  rw [BitVec.getLsbD_and, pressedKeys_getLsbD, releasedKeys_getLsbD]
  cases last.getLsbD k <;> simp

theorem handlerOf_keypad (p : Config.Params) : handlerOf (tableOf p) 0x18#8 = some .readKeypad :=
  handlerOf_listed (d := ⟨0x18#8, 0, 0, some .readKeypad⟩) p rfl

/-- Settles O35: the response is the handler's one send, and each bit of its edges is read off the two bitmasks. -/
theorem readKeypadReportsEdges : Obligations.ReadKeypadReportsEdges := by
  intro s h p ha hd hid hs
  have hk := keypadRuns_eq_true hd (hid ▸ handlerOf_keypad s.config)
  obtain ⟨t, ht, hr⟩ := keypadResponse_respondsOnce ha hd hs hk
  have hnext : exec (.cmdReadKeypad p) s = .next t := by
    rw [exec, execCmdReadKeypad, ← hid, handlerStep_respond ha hd hs, ht, settle_ok]
  exact ⟨t, _, _, hnext, hr.keys, pressedKeys_getLsbD _ _, releasedKeys_getLsbD _ _, pressedKeys_and_releasedKeys _ _, hr.puts,
    hr.sent, hr.crc, hr.staging, hr.stats, hr.transport, hr.control, hr.invocations, hr.result⟩

/-! ### RING.USED (R21, R105) -/

theorem ringUsed_eq (s : State) (r : RingId) : exec (.ringUsed r) s = .next { s with result := .count (s.ring r).used } := rfl

/-- R21 counts from head to tail around the store. -/
theorem Ring.used_eq_emod (x : Ring) : (x.used : Int) = ((x.tail.val : Int) - (x.head.val : Int)) % 129 := by
  have := x.head_lt
  simp only [Ring.used, Config.storeSize]
  omega

theorem Ring.used_eq_zero_iff (x : Ring) : x.used = 0 ↔ x.head = x.tail := by
  have := x.head_lt; have := x.tail_lt
  simp only [Fin.ext_iff, Ring.used, Config.storeSize]
  omega

theorem Ring.used_eq_capacity_iff (x : Ring) : x.used = 128 ↔ x.free = 0 := by
  have := x.used_le
  simp only [Ring.free, Config.ringCapacity] at *
  omega

/-- Settles O4: R105 returns `used`, which R21 defines modulo the store's size. -/
theorem ringUsedCountsBytes : Obligations.RingUsedCountsBytes := by
  intro s r
  exact ⟨(s.ring r).used, ringUsed_eq s r, Ring.used_eq_emod _, Ring.used_le _, Ring.used_eq_zero_iff _,
    Ring.used_eq_capacity_iff _, Ring.contents_length _ _⟩

/-! ### Refused operations and reads -/

/-- Settles O5: each refused operation ends in the fault of its first failing check. -/
theorem ringMisuseRaisesFault : Obligations.RingMisuseRaisesFault := by
  intro s r bytes max
  refine ⟨fun ha => ?_, fun ha hr => ?_, fun ha => ?_, fun ha => ?_, fun ha hi hr => ?_⟩
  · simp [exec, execRingInit, ha, raise_eq_marked]
  · simp [exec, execRingInit, ha, hr, raise_eq_marked]
  · simp [exec, execRingPut, ha, raise_eq_marked]
  · simp [exec, execRingGet, ha, raise_eq_marked]
  · simp [exec, execRingGet, ha, hi, hr, raise_eq_marked]

/-- Settles O12: the agent is checked before the register's valid mark. -/
theorem crcMisuseRaisesFault : Obligations.CrcMisuseRaisesFault := by
  intro s b
  refine ⟨fun ha => ⟨?_, ?_, ?_⟩, fun ha hv => ⟨?_, ?_⟩⟩
  · simp [exec, execCrcInit, ha, raise_eq_marked]
  · simp [exec, execCrcStep, ha, raise_eq_marked]
  · simp [exec, execCrcRead, ha, raise_eq_marked]
  · simp [exec, execCrcStep, ha, hv, raise_eq_marked]
  · simp [exec, execCrcRead, ha, hv, raise_eq_marked]

/-- Settles O42: the index selects its counter. -/
theorem statReadReturnsCounter : Obligations.StatReadReturnsCounter := by
  intro s
  refine ⟨fun i v hi => ?_, rfl⟩
  simp only [List.mem_cons, Prod.mk.injEq, List.not_mem_nil, or_false] at hi
  obtain ⟨rfl, rfl⟩ | ⟨rfl, rfl⟩ | ⟨rfl, rfl⟩ | ⟨rfl, rfl⟩ | ⟨rfl, rfl⟩ | ⟨rfl, rfl⟩ | ⟨rfl, rfl⟩ := hi <;> rfl

/-! ### The reset state (R35, R260) -/

@[simp] theorem reset_ring (r : RingId) : State.reset.ring r = Ring.reset := by rcases r with (_ | _) | (_ | _) <;> rfl
@[simp] theorem reset_staging (c : Channel) : State.reset.staging c = Staging.reset := by cases c <;> rfl
@[simp] theorem reset_latch (c : Channel) : State.reset.latch c = Latch.reset := by cases c <;> rfl

/-- Settles O51: the reset values are read off `State.reset`, and the listed table is checked entry by entry. -/
theorem resetStateHasSpecValues : Obligations.ResetStateHasSpecValues := by
  refine ⟨fun r => ?_, rfl, fun c => ?_, fun n => ?_, rfl, fun c => ?_, rfl, rfl, fun c => ?_, rfl, rfl, ?_, ?_, ?_⟩
  · simp [State.contents, Ring.reset, Ring.contents, Ring.peek, Ring.used]
  · simp [Staging.reset]
  · cases n <;> rfl
  · simp [Latch.reset]
  · cases c <;> rfl
  · simp [tableOf, State.reset, resetConfig]
  · rfl
  · decide

end Sys2Proof.Machine
end

section
/-! SUPPORT. Memory: a handler's frame stays at the front of its channel's staged bytes (R51, R152), the order of a ring's bytes (R59), ring
operations on different rings (R52, R53), and the completion of every well-formed instruction (R63). -/

namespace Sys2Proof.Machine

/-! ### The frame of a running handler (R51, R152, R173) -/

theorem frameStaged_iff {s : State} :
    s.frameStaged = true ↔ ∀ h, s.decState = .inHandler h → h.frame = (s.staged h.ch).take h.size := by
  unfold State.frameStaged
  split <;> simp_all

theorem frameStaged_of_idle {s : State} (h : s.decState = .idle) : s.frameStaged = true := by
  simp [frameStaged_iff, h]

/-- The invariant reads `dec_state` and the staged bytes alone. -/
theorem frameStaged_congr {s t : State} (hd : t.decState = s.decState) (hs : ∀ c, t.staged c = s.staged c) :
    t.frameStaged = s.frameStaged := by
  simp [State.frameStaged, hd, hs]

/-- A dispatch hands over the front of the staged bytes and leaves them staged (R152). -/
theorem dispatch_frameStaged (s : State) (ch : Channel) (n : Nat) : (s.dispatch ch (s.staged ch) n).frameStaged = true := by
  simp [State.frameStaged]

/-- Until it dispatches, a pass from Idle stays in Idle, whatever it discards (R144). -/
theorem passLoop_frameStaged {s : State} (h : s.decState = .idle) (ch : Channel) (fuel : Nat) :
    (passLoop ch fuel s).frameStaged = true := by
  refine passLoop_induction (P := fun u => u.decState = .idle) (Q := fun u => u.frameStaged = true) ?_ ?_ ?_ fuel s h
  · intro u t hu ha
    obtain ⟨-, n, e, -, rfl⟩ := attempt_again ha
    simpa [State.reject] using hu
  · intro u t hu ha
    obtain ⟨-, rfl⟩ | ⟨-, ⟨id, req, -, rfl⟩ | ⟨n, -, rfl⟩⟩ := attempt_done ha
    · exact frameStaged_of_idle (by simpa using hu)
    · exact frameStaged_of_idle (by simpa using hu)
    · exact dispatch_frameStaged (u.count .framesAttempted) ch n
  · exact fun u hu => frameStaged_of_idle hu

/-- A send counts itself in the record of the running handler and writes neither its frame nor a staged byte (R172, R192). -/
theorem encSend_frameStaged {s t : State} {ch : Channel} {bytes : List Byte} {set40 : Bool} (h : s.frameStaged = true)
    (hs : encSend s ch bytes set40 = .ok t) : t.frameStaged = true := by
  obtain ⟨-, -, -, d, hd, rfl⟩ := encSend_ok hs
  obtain ⟨-, hok⟩ | ⟨run, hrun, -, -, hok⟩ | ⟨run, -, -, herr⟩ := noteSend_cases s.decState ch
  · obtain rfl := Except.ok.inj (hok.symm.trans hd)
    exact frameStaged_of_idle (by simp)
  · obtain rfl := Except.ok.inj (hok.symm.trans hd)
    simpa [State.frameStaged, hrun] using h
  · cases herr.symm.trans hd

/-- Only DEC.FILL and DEC.PASS, which run in Idle, and the return, which ends the handler, write staged bytes. -/
theorem effect_frameStaged {i : Instr} {s t : State} (h : s.frameStaged = true) (he : Effect i s t) : t.frameStaged = true := by
  cases he
  case fill hr _ => exact frameStaged_of_idle (by simpa using idle_of_not_running hr)
  case pass ch _ hr => exact passLoop_frameStaged (idle_of_not_running hr) ch _
  case returns hr =>
    obtain ⟨-, run, -, -, rfl⟩ := handlerReturn_ok hr
    exact frameStaged_of_idle (by simp)
  case sends hs => exact encSend_frameStaged h hs
  all_goals exact (frameStaged_congr (by simp) (by simp)).trans h

theorem Issued.frameStaged_eq {s u : State} (h : Issued s u) : u.frameStaged = s.frameStaged := by
  obtain ⟨ag, d, rest, rfl⟩ := h
  rfl

/-- Settles O56: a dispatch stages the frame, and no effect during the handler writes the staged bytes or the frame. -/
theorem stepKeepsHandlerFrameStaged : Obligations.StepKeepsHandlerFrameStaged := by
  intro s t hstaged h
  obtain rfl | ⟨rest, -, rfl⟩ | ⟨i, u, hu, -, he, -⟩ := step_effect h
  · exact hstaged
  · exact frameStaged_of_idle rfl
  · exact effect_frameStaged (hu.frameStaged_eq.trans hstaged) he

/-! ### The order of a ring's bytes (R59) -/

/-- The bytes a ring has returned and then those it holds are a subsequence of the bytes put. -/
def RingHistory.InOrder (sp : Space) (h : RingHistory) : Prop :=
  (h.returned ++ h.ring.contents sp).Sublist h.given

/-- A put may drop the oldest bytes held; a get moves bytes from the front of the ring to the end of those returned. -/
theorem RingHistory.step_inOrder {sp : Space} {h : RingHistory} (ho : h.InOrder sp) (op : RingStep) :
    (h.step sp op).InOrder sp := by
  cases op with
  | put bytes =>
    have hkept : ((h.ring.put bytes).contents sp).Sublist (h.ring.contents sp ++ bytes) := by
      rw [Ring.put_contents]
      exact List.drop_sublist _ _
    have hheld := hkept.append_left h.returned
    rw [← List.append_assoc] at hheld
    exact hheld.trans (List.Sublist.append_right ho bytes)
  | get max =>
    have hn : min max h.ring.used ≤ h.ring.used := min_le_right _ _
    simpa [RingHistory.InOrder, RingHistory.step, Ring.peek_take _ _ _ hn, Ring.advance_contents _ _ _ hn] using ho

theorem RingHistory.run_inOrder {sp : Space} {h : RingHistory} (ho : h.InOrder sp) (ops : List RingStep) :
    (h.run sp ops).InOrder sp := by
  induction ops generalizing h with
  | nil => exact ho
  | cons op rest ih => exact ih (RingHistory.step_inOrder ho op)

/-- Settles O8: the order holds of the empty ring, and every put and get keeps it. -/
theorem ringOrderIsKept : Obligations.RingOrderIsKept := by
  intro sp x ops
  exact RingHistory.run_inOrder (by simp [RingHistory.InOrder, RingHistory.start]) ops

/-! ### Ring operations on different rings (R52, R53) -/

/-- The state a ring operation leaves outside a handler (R100, R101, R104, R105). -/
def RingOp.after (op : RingOp) (r : RingId) (s : State) : State :=
  let u := s.issue (op.agent r) s.pending
  match op with
  | .init => (u.setRing r (u.ring r).init).finish .none
  | .put bytes => (u.put r bytes).finish .none
  | .get max => (u.consume r max).finish (.got (u.front r max).length (u.front r max))
  | .used => u.finish (.count (u.ring r).used)

/-- The events of a ring operation on a ring in state `x`: the overrun of a put (R102). -/
def RingOp.events (op : RingOp) (r : RingId) (x : Ring) : List Event :=
  match op with
  | .put bytes => if 128 < x.used + bytes.length then [.ringOverrun r (x.used + bytes.length - 128)] else []
  | _ => []

/-- Everything but the rings, the events, the result and the model's own fields is as before. -/
def SameBesideRings (s t : State) : Prop :=
  SameCrc s t ∧ SameStaging s t ∧ SameStats s t ∧ SameKeys s t ∧ SameDispatch s t ∧ SameTransport s t ∧
    t.faulted = s.faulted ∧ t.config = s.config

theorem SameBesideRings.refl (s : State) : SameBesideRings s s := by
  simp [SameBesideRings, SameCrc, SameStaging, SameStats, SameKeys, SameDispatch, SameTransport]

section RingOps

variable (op : RingOp) (r : RingId) (s t : State)

/-- The agent has the right to its operation, and no handler forbids it (R22, R173). -/
theorem RingOp.exec_eq (h : s.running = false) : op.exec r s = .next (op.after r s) := by
  change Machine.exec (op.instr r) (s.issue (op.agent r) s.pending) = _
  cases op with
  | init => simp [RingOp.instr, RingOp.agent, RingOp.after, Machine.exec, execRingInit, h]
  | put bytes => simp [RingOp.instr, RingOp.agent, RingOp.after, Machine.exec, execRingPut]
  | get max => simp [RingOp.instr, RingOp.agent, RingOp.after, Machine.exec, execRingGet, h]
  | used => rfl

@[simp] theorem RingOp.after_running : (op.after r s).running = s.running := by
  cases op <;> simp [RingOp.after]

theorem RingOp.after_events : (op.after r s).events = s.events ++ op.events r (s.ring r) := by
  cases op <;> simp [RingOp.after, RingOp.events, put_events]

theorem RingOp.after_ring_other {q : RingId} (h : q ≠ r) : (op.after r s).ring q = s.ring q := by
  cases op <;> simp [RingOp.after, State.consume, put_ring, setRing_ring, h]

/-- What an operation makes of its ring, and returns, depends on that ring alone (R52). -/
theorem RingOp.after_congr {s t : State} (h : t.ring r = s.ring r) :
    (op.after r t).ring r = (op.after r s).ring r ∧ (op.after r t).result = (op.after r s).result := by
  cases op <;> simp [RingOp.after, State.consume, State.front, put_ring, h]

@[simp] theorem RingOp.sameBesideRings_after : SameBesideRings t (op.after r s) ↔ SameBesideRings t s := by
  cases op <;>
    simp [RingOp.after, SameBesideRings, SameCrc, SameStaging, SameStats, SameKeys, SameDispatch, SameTransport]

@[simp] theorem RingOp.after_sameBesideRings : SameBesideRings (op.after r s) t ↔ SameBesideRings s t := by
  cases op <;>
    simp [RingOp.after, SameBesideRings, SameCrc, SameStaging, SameStats, SameKeys, SameDispatch, SameTransport]

end RingOps

/-- In either order every ring ends the same: each operation finds its own ring as it was. -/
theorem RingOp.after_after_ring {r q : RingId} (hrq : r ≠ q) (v w : RingOp) (s : State) (x : RingId) :
    (w.after q (v.after r s)).ring x = (v.after r (w.after q s)).ring x := by
  have hr : (w.after q s).ring r = s.ring r := w.after_ring_other q s hrq
  have hq : (v.after r s).ring q = s.ring q := v.after_ring_other r s hrq.symm
  by_cases hxr : x = r
  · subst hxr
    rw [w.after_ring_other q _ hrq, (v.after_congr x hr).1]
  · rw [v.after_ring_other r _ hxr]
    by_cases hxq : x = q
    · subst hxq
      exact (w.after_congr x hq).1
    · rw [w.after_ring_other q _ hxq, w.after_ring_other q _ hxq, v.after_ring_other r _ hxr]

/-- Settles O9: each operation reads and writes its own ring alone, so it does the same before and after the other. -/
theorem ringOpsOnDifferentRingsCommute : Obligations.RingOpsOnDifferentRingsCommute := by
  intro s r q v w hrq hs
  have hr : (w.after q s).ring r = s.ring r := w.after_ring_other q s hrq
  have hq : (v.after r s).ring q = s.ring q := v.after_ring_other r s hrq.symm
  have hevents : (w.after q (v.after r s)).events.Perm (v.after r (w.after q s)).events := by
    simp only [RingOp.after_events, hr, hq, List.append_assoc]
    exact List.perm_append_comm.append_left s.events
  have hrest : SameBesideRings (w.after q (v.after r s)) (v.after r (w.after q s)) := by
    simpa using SameBesideRings.refl s
  exact ⟨_, _, _, _, v.exec_eq r s hs, w.exec_eq q _ (by simpa using hs), w.exec_eq q s hs, v.exec_eq r _ (by simpa using hs),
    (v.after_congr r hr).2, (w.after_congr q hq).2, RingOp.after_after_ring hrq v w s, hevents, hrest⟩

/-! ### Every well-formed instruction completes (R63, R231, R235) -/

theorem settle_completes (s : State) (x : Except FaultReason State) : ∃ t, settle s x = .next t := by
  obtain ⟨t, -, h⟩ | ⟨r, -, h⟩ := settle_cases s x
  · exact ⟨t, h⟩
  · exact ⟨s.raise r, h⟩

/-- Every index but 7 names a counter (R27, R81). -/
theorem statOfIndex_isSome : ∀ i : BitVec 3, i ≠ 7#3 → (statOfIndex i).isSome = true := by
  decide

/-- Settles O49: every instruction but STAT.READ settles its step, and a well-formed index names a counter. -/
theorem wellFormedInstructionsComplete : Obligations.WellFormedInstructionsComplete := by
  intro i s hwf
  cases i
  case ringUsed r => exact ⟨_, ringUsed_eq s r⟩
  case statRead idx =>
    obtain ⟨n, hn⟩ := Option.isSome_iff_exists.1 (statOfIndex_isSome idx (by simpa [Instr.wf] using hwf))
    exact ⟨s.finish (.counter (s.stats.get n)), by simp [exec, execStatRead, hn]⟩
  all_goals exact settle_completes s _

end Sys2Proof.Machine
end

section
/-! SUPPORT. The encodings: decoding what was encoded (R70, R76, R80, R81), the dispatch of a valid frame and the fetch of its command
(R73, R152, R173), and the inputs without meaning (R235). -/

namespace Sys2Proof

/-! ### Operands (R7, R81) -/

@[simp] theorem formR_ringByte (r : RingId) : Machine.formR (Machine.ringByte r) = some r := by
  rcases r with (_ | _) | (_ | _) <;> rfl

@[simp] theorem formRB_ringByte (r : RingId) : Machine.formRB (Machine.ringByte r) = r := by
  rcases r with (_ | _) | (_ | _) <;> rfl

@[simp] theorem formC_channelByte (ch : Channel) : Machine.formC (Machine.channelByte ch) = some ch := by
  cases ch <;> rfl

@[simp] theorem formCB_channelByte (ch : Channel) : Machine.formCB (Machine.channelByte ch) = ch := by
  cases ch <;> rfl

theorem formI_setWidth : ∀ i : BitVec 3, i ≠ 7#3 → Machine.formI (i.setWidth 8) = some i := by
  decide

/-- A byte of at least `2^k` has a bit set from bit `k` up. -/
theorem extractLsb'_ne_zero {k n : Nat} {a : Byte} (hw : k + n = 8) (h : 2 ^ k ≤ a.toNat) : a.extractLsb' k n ≠ 0#n := by
  intro h0
  have hhigh : a.toNat / 2 ^ k < 2 ^ n := Nat.div_lt_of_lt_mul (by rw [← pow_add, hw]; exact a.isLt)
  have hpos : 0 < a.toNat / 2 ^ k := Nat.div_pos h (by positivity)
  have hval := congrArg BitVec.toNat h0
  rw [BitVec.extractLsb'_toNat, Nat.shiftRight_eq_div_pow, Nat.mod_eq_of_lt hhigh, BitVec.toNat_ofNat, Nat.zero_mod] at hval
  omega

/-- A ring operand above 3 has a bit in the must-be-0 field `a[7:2]`. -/
theorem formR_eq_none {a : Byte} (h : 4 ≤ a.toNat) : Machine.formR a = none :=
  if_neg (extractLsb'_ne_zero rfl h)

/-- A channel operand above 1 has a bit in the must-be-0 field `a[7:1]`. -/
theorem formC_eq_none {a : Byte} (h : 2 ≤ a.toNat) : Machine.formC a = none :=
  if_neg (extractLsb'_ne_zero rfl h)

/-- The counter index is the operand modulo 8, and 7 names no counter. -/
theorem formI_eq_none {a : Byte} (h : a.toNat % 8 = 7) : Machine.formI a = none := by
  have hindex : a.extractLsb' 0 3 = 7#3 := BitVec.eq_of_toNat_eq (by simpa using h)
  simp [Machine.formI, hindex]

/-! ### Requests (R80, R81) -/

@[simp] theorem operandOr_some {α : Type} (r : Request) (x : α) (make : α → Instr) :
    operandOr r (some x) make = .ok (make x) := rfl

@[simp] theorem operandOr_none {α : Type} (r : Request) (make : α → Instr) :
    operandOr r none make = .error (.illFormedOperand r.op r.a) := rfl

/-- The request of a well-formed port operation decodes to it. -/
theorem decodeRequest_encode {i : Instr} {r : Request} (hwf : i.wf = true) (h : encode i = .request r) :
    decodeRequest r = .ok i := by
  cases i <;> cases h
  case statRead i =>
    have hi : i ≠ 7#3 := by simpa [Instr.wf] using hwf
    simp [decodeRequest, formI_setWidth i hi]
  all_goals simp [decodeRequest]

theorem decodeRequest_unknown {r : Request} (h : r.op ∉ [0x01#8, 0x02#8, 0x03#8, 0x04#8, 0x10#8, 0x11#8, 0x12#8, 0x20#8, 0x21#8,
    0x22#8, 0x30#8, 0x31#8, 0x40#8, 0x41#8, 0x50#8]) : decodeRequest r = .error (.unknownOperation r.op) := by
  unfold decodeRequest
  split <;> simp_all

theorem decodeRequest_illFormedRing {r : Request} (hop : r.op ∈ [0x01#8, 0x04#8]) (ha : 4 ≤ r.a.toNat) :
    decodeRequest r = .error (.illFormedOperand r.op r.a) := by
  simp only [List.mem_cons, List.not_mem_nil, or_false] at hop
  obtain hop | hop := hop <;> simp [decodeRequest, hop, formR_eq_none ha]

theorem decodeRequest_illFormedChannel {r : Request} (hop : r.op ∈ [0x20#8, 0x21#8, 0x40#8, 0x41#8]) (ha : 2 ≤ r.a.toNat) :
    decodeRequest r = .error (.illFormedOperand r.op r.a) := by
  simp only [List.mem_cons, List.not_mem_nil, or_false] at hop
  obtain hop | hop | hop | hop := hop <;> simp [decodeRequest, hop, formC_eq_none ha]

theorem decodeRequest_illFormedIndex {r : Request} (hop : r.op = 0x50#8) (ha : r.a.toNat % 8 = 7) :
    decodeRequest r = .error (.illFormedOperand r.op r.a) := by
  simp [decodeRequest, hop, formI_eq_none ha]

/-! ### Commands (R70, R76) -/

/-- An instruction encoded as a frame's front is the listed command of an id, with the payload that follows it. -/
theorem encode_command {i : Instr} {f : List Byte} (h : encode i = .command f) :
    ∃ id p, f = Machine.headerAndPayload id p ∧ commandOf id p = some i ∧ i.wf = payloadOk id p := by
  cases i <;> cases h <;> exact ⟨_, _, rfl, rfl, rfl⟩

/-- A payload is accepted by the listed entry of its id (R76, R143). -/
theorem payloadOk_iff {id : Byte} {p : List Byte} : payloadOk id p = true ↔
    ∃ d, Machine.lookup Machine.listedTable id = some d ∧ d.min ≤ p.length ∧ p.length ≤ d.max ∧ p.length ≤ 252 := by
  unfold payloadOk
  split <;> simp_all [Machine.accepts_iff]

/-- The header and payload of a listed command decode to it, and nothing is left over. -/
theorem decodeCommand_headerAndPayload {i : Instr} {id : Byte} {p : List Byte} (hi : commandOf id p = some i)
    (hp : p.length ≤ 252) : decodeCommand (Machine.headerAndPayload id p) = .ok (i, []) := by
  have hn : (BitVec.ofNat 8 p.length).toNat = p.length := by simp; omega
  simp [decodeCommand, Machine.headerAndPayload, hn, hi]

/-- Settles O58: a port operation is encoded as a request, whose operands read back; a command as a frame's front, whose length
byte holds its payload's length. -/
theorem decodeEncodeRoundTrip : Obligations.DecodeEncodeRoundTrip := by
  intro i hwf
  cases he : encode i with
  | request r => exact decodeRequest_encode hwf he
  | command f =>
    obtain ⟨id, p, rfl, hi, hok⟩ := encode_command he
    obtain ⟨d, -, -, -, hp⟩ := payloadOk_iff.1 (hok ▸ hwf)
    simp [decode, decodeCommand_headerAndPayload hi hp]

/-- Settles O60: the decoder computes each word. -/
theorem wordsDecodeAsSpecified : Obligations.WordsDecodeAsSpecified :=
  ⟨rfl, rfl, rfl, rfl, rfl, rfl, rfl, rfl, rfl⟩

namespace Machine

/-! ### The dispatch of a valid frame (R73, R144, R152) -/

/-- A trip on a valid frame dispatches it. -/
theorem attempt_valid {ch : Channel} {s : State} {n : Nat} (hfill : Config.minFrame ≤ (s.staging ch).fill)
    (hj : judge (tableOf s.config) (s.staged ch) = .valid n) :
    attempt ch s = .done (((s.count .framesAttempted).dispatch ch (s.staged ch) n).finish .dispatched) := by
  simp [attempt, Nat.not_lt.2 hfill, hj]

/-- A pass on a valid frame makes one trip. -/
theorem decPass_valid {s : State} {ch : Channel} {n : Nat} (ha : s.agent = .main) (hd : s.decState = .idle)
    (hfill : Config.minFrame ≤ (s.staging ch).fill) (hj : judge (tableOf s.config) (s.staged ch) = .valid n) :
    exec (.decPass ch) s = .next (((s.count .framesAttempted).dispatch ch (s.staged ch) n).finish .dispatched) := by
  obtain ⟨k, hk⟩ : ∃ k, (s.staging ch).fill = k + 1 := Nat.exists_eq_add_one.2 (lt_of_lt_of_le (by decide) hfill)
  simp [decPass_eq ha hd, hk, passLoop, attempt_valid hfill hj]

/-- Settles O22: a frame passes the checks, so the pass dispatches the header and payload at its front. -/
theorem decPassDispatchesValidFrame : Obligations.DecPassDispatchesValidFrame := by
  intro s ch d id p rest ha hd hs hl hmin hmax hp
  have hfill : Config.minFrame ≤ (s.staging ch).fill := by
    have hlen : (s.staging ch).fill = (frameOf id p ++ rest).length := by rw [← hs]; simp [State.staged]
    rw [hlen, List.length_append, frameOf_length]
    simp only [Config.minFrame]
    omega
  have hj : judge (tableOf s.config) (s.staged ch) = .valid p.length := hs ▸ judge_frameOf rest hl hmin hmax hp
  obtain ⟨hid, -, hfront⟩ := frameOf_bytes id p rest hp
  refine ⟨_, decPass_valid ha hd hfill hj, rfl, ?_, ?_, by simp, by simp, fun _ => by simp, fun _ => by simp, ?_, ?_, ?_, ?_⟩
  · simp [hs, hid, hfront, Config.headerSize]
  · simp [hs, hid, hfront]
  · simp [SameCrc]
  · simp [SameKeys]
  · simp [SameTransport]
  · simp [SameControl]

/-! ### The fetch of the dispatched command (R173) -/

/-- The listed entries stand in front, so the table finds a listed command's own entry (R142, R171). -/
theorem lookup_listed {id : Byte} {d : Descriptor} (p : Config.Params) (h : lookup listedTable id = some d) :
    lookup (tableOf p) id = some d := by
  simp only [lookup] at h
  simp [lookup, tableOf, List.find?_append, h]

/-- A running handler's step fetches the command its frame decodes to. -/
theorem fetch_command {s : State} {h : HandlerRun} {d : Draw} {rest : List Input} {i : Instr} {extra : List Byte}
    (ht : tableWf (tableOf s.config) = true) (hf : s.faulted = none) (hp : s.pending = .handler d :: rest)
    (hd : s.decState = .inHandler h) (hi : decodeCommand h.frame = .ok (i, extra)) : fetch s = .run i (s.issueHandler d rest) := by
  simp [fetch_handler ht hf hp, fetchHandler, hd, hi]

/-- Settles O59: the table accepts the frame, the dispatch hands its header and payload to the handler, and these decode to the
command. -/
theorem wellFormedCommandIsDispatchedAndFetched : Obligations.WellFormedCommandIsDispatchedAndFetched := by
  intro i f rest s ch hwf he ha hd hf ht hs
  obtain ⟨id, p, rfl, hi, hok⟩ := encode_command he
  obtain ⟨e, hl, hmin, hmax, hp⟩ := payloadOk_iff.1 (hok ▸ hwf)
  obtain ⟨t, hexec, hresult, hdec, -, -, -, -, -, -, -, -, hcontrol⟩ :=
    decPassDispatchesValidFrame s ch e id p rest ha hd hs (lookup_listed s.config hl) hmin hmax hp
  obtain ⟨hfault, hconfig, -⟩ := hcontrol
  have htable : tableWf (tableOf t.config) = true := by rwa [hconfig]
  exact ⟨t, hexec, hresult, fun d later =>
    fetch_command htable (hfault.trans hf) rfl hdec (decodeCommand_headerAndPayload hi hp)⟩

/-! ### Inputs without meaning (R235) -/

/-- A request the decoder refuses is refused by the step. -/
theorem step_undecodable {s : State} {ag : Agent} {r : Request} {rest : List Input} {e : DecodeError}
    (ht : tableWf (tableOf s.config) = true) (hf : s.faulted = none) (hp : s.pending = .port ag r :: rest)
    (he : decodeRequest r = .error e) : step s = .refused (.undecodable e) := by
  simp [step, fetch_port ht hf hp, fetchRequest, he]

/-- Settles O54: the decoder refuses each of these requests, so the step does. -/
theorem meaninglessInputsAreRefused : Obligations.MeaninglessInputsAreRefused := by
  intro s ag r rest ht hf hp
  exact ⟨fun hop => step_undecodable ht hf hp (decodeRequest_unknown hop),
    fun hop ha => step_undecodable ht hf hp (decodeRequest_illFormedRing hop ha),
    fun hop ha => step_undecodable ht hf hp (decodeRequest_illFormedChannel hop ha),
    fun hop ha => step_undecodable ht hf hp (decodeRequest_illFormedIndex hop ha)⟩

end Machine

end Sys2Proof
end

section
/-! SUPPORT. The rings (40_ring): the frame of a ring operation, RING.INIT, RING.PUT and RING.GET for the agent with the right to them
(R100, R101, R104), the FIFO law (R106) and the overrun law (R107). -/

namespace Sys2Proof.Machine

/-! ### The frame of a ring operation (R52) -/

/-- From `s` to `t` nothing changes but ring `r`, the events and the result. -/
structure OnlyRing (r : RingId) (s t : State) : Prop where
  rings : SameRingsBut r s t
  crc : SameCrc s t
  staging : SameStaging s t
  stats : SameStats s t
  keys : SameKeys s t
  dispatch : SameDispatch s t
  transport : SameTransport s t
  control : SameControl s t

theorem onlyRing_setRing (s : State) (r : RingId) (x : Ring) : OnlyRing r s (s.setRing r x) where
  rings q hq := setRing_ring_other s r q x hq
  crc := by simp [SameCrc]
  staging := by simp [SameStaging]
  stats := by simp [SameStats]
  keys := by simp [SameKeys]
  dispatch := by simp [SameDispatch]
  transport := by simp [SameTransport]
  control := by simp [SameControl]

theorem OnlyRing.record {r : RingId} {s t : State} (h : OnlyRing r s t) (e : Event) : OnlyRing r s (t.record e) :=
  ⟨h.rings, h.crc, h.staging, h.stats, h.keys, h.dispatch, h.transport, h.control⟩

theorem OnlyRing.finish {r : RingId} {s t : State} (h : OnlyRing r s t) (x : Result) : OnlyRing r s (t.finish x) :=
  ⟨h.rings, h.crc, h.staging, h.stats, h.keys, h.dispatch, h.transport, h.control⟩

theorem onlyRing_put (s : State) (r : RingId) (bytes : List Byte) : OnlyRing r s (s.put r bytes) := by
  have hset := onlyRing_setRing s r ((s.ring r).put bytes)
  unfold State.put
  dsimp only
  split
  · exact hset.record _
  · exact hset

theorem onlyRing_consume (s : State) (r : RingId) (max : Nat) : OnlyRing r s (s.consume r max) :=
  onlyRing_setRing s r _

/-! ### RING.INIT, RING.PUT and RING.GET for the agent with the right to them (R22, R173) -/

theorem ringInit_eq {s : State} (r : RingId) (ha : s.agent = .main) (hr : s.running = false) :
    exec (.ringInit r) s = .next ((s.setRing r (s.ring r).init).finish .none) := by
  simp [exec, execRingInit, ha, hr]

theorem ringPut_eq {s : State} {r : RingId} (bytes : List Byte) (ha : s.agent = producer r) :
    exec (.ringPut r bytes) s = .next ((s.put r bytes).finish .none) := by
  simp [exec, execRingPut, ha]

theorem ringGet_eq {s : State} {r : RingId} (max : Nat) (ha : s.agent = consumer r)
    (hr : isInbound r = true → s.running = false) :
    exec (.ringGet r max) s =
      .next ((s.consume r max).finish (.got (s.front r max).length (s.front r max))) := by
  have hallowed : (isInbound r && s.running) = false := by simpa using hr
  simp [exec, execRingGet, ha, hallowed]

/-- Settles O1: an emptied ring keeps its store, and the update writes no other register. -/
theorem ringInitEmptiesRing : Obligations.RingInitEmptiesRing := by
  intro s r ha hr
  have hframe := (onlyRing_setRing s r (s.ring r).init).finish .none
  have hring : ((s.setRing r (s.ring r).init).finish .none).ring r = (s.ring r).init := by simp
  exact ⟨_, ringInit_eq r ha hr, by rw [hring]; rfl, by rw [hring]; rfl, by rw [hring, Ring.init_used], by simp,
    fun c => by rw [hring, Ring.init_store], hframe.rings, hframe.crc, hframe.staging, hframe.stats, hframe.keys,
    hframe.dispatch, hframe.transport, hframe.control, by simp, rfl⟩

/-- Settles O2: the step is the put, which does what `PutsInto` says. -/
theorem ringPutKeepsNewest : Obligations.RingPutKeepsNewest := by
  intro s r bytes ha
  have hframe := (onlyRing_put s r bytes).finish .none
  have hputs : PutsInto r bytes s ((s.put r bytes).finish .none) :=
    (put_putsInto s r bytes).congr (fun _ => rfl) rfl (by simp) (by simp)
  exact ⟨_, ringPut_eq bytes ha, hputs, hframe.crc, hframe.staging, hframe.stats, hframe.keys, hframe.dispatch,
    hframe.transport, hframe.control, rfl⟩

theorem consume_ring_self (s : State) (r : RingId) (max : Nat) :
    (s.consume r max).ring r = (s.ring r).advance (min max (s.ring r).used) :=
  setRing_ring_self s r _

/-- Settles O3: the bytes returned are the front of the contents, and `head` moves past them. -/
theorem ringGetTakesOldest : Obligations.RingGetTakesOldest := by
  intro s r max ha hr
  have hframe := (onlyRing_consume s r max).finish (.got (s.front r max).length (s.front r max))
  have hring : ((s.consume r max).finish (.got (s.front r max).length (s.front r max))).ring r =
      (s.ring r).advance (min max (s.ring r).used) := by
    rw [finish_ring, consume_ring_self]
  exact ⟨_, _, rfl, ringGet_eq max ha hr, by rw [finish_result, front_length, front_take],
    by rw [finish_contents, consume_contents], by rw [hring]; rfl, by rw [hring, Ring.advance_tail],
    fun c => by rw [hring, Ring.advance_store], hframe.rings, hframe.crc, hframe.staging, hframe.stats, hframe.keys,
    hframe.dispatch, hframe.transport, hframe.control, by simp⟩

/-! ### The last bytes of a sequence (R11) -/

theorem lastBytes_of_length_le {k : Nat} {l : List Byte} (h : l.length ≤ k) : lastBytes k l = l := by
  simp [lastBytes, Nat.sub_eq_zero_of_le h]

theorem lastBytes_min_length (k : Nat) (l : List Byte) : lastBytes (min k l.length) l = lastBytes k l := by
  unfold lastBytes
  congr 1
  omega

/-- Bytes in front of at least `k` others are not among the last `k`. -/
theorem lastBytes_append_right {k : Nat} {b : List Byte} (a : List Byte) (h : k ≤ b.length) :
    lastBytes k (a ++ b) = lastBytes k b := by
  unfold lastBytes
  rw [List.length_append, Nat.add_sub_assoc h, List.drop_length_add_append]

/-- Bytes dropped for having `k` newer ones are not missed after more bytes. -/
theorem lastBytes_lastBytes_append (k : Nat) (a b : List Byte) :
    lastBytes k (lastBytes k a ++ b) = lastBytes k (a ++ b) := by
  by_cases h : a.length ≤ k
  · rw [lastBytes_of_length_le h]
  · have hlen : (lastBytes k a).length = k := by
      simp only [lastBytes, List.length_drop]
      omega
    conv_rhs => rw [← List.take_append_drop (a.length - k) a, List.append_assoc]
    exact (lastBytes_append_right _ (by rw [List.length_append]; omega)).symm

/-! ### The FIFO law (R106) -/

/-- A put leaves the newest `C` of the bytes held and put. -/
theorem Ring.put_contents_newest (sp : Space) (x : Ring) (b : List Byte) :
    (x.put b).contents sp = lastBytes 128 (x.contents sp ++ b) := by
  rw [Ring.put_contents, ← lastBytes_min_length 128, List.length_append, Ring.contents_length]

/-- A put that drops nothing appends. -/
theorem Ring.put_contents_append (sp : Space) {x : Ring} {b : List Byte} (h : x.dropped b.length = 0) :
    (x.put b).contents sp = x.contents sp ++ b := by
  have hroom : (x.contents sp ++ b).length ≤ 128 := by
    rw [List.length_append, Ring.contents_length]
    exact Nat.le_of_sub_eq_zero h
  rw [Ring.put_contents_newest, lastBytes_of_length_le hroom]

/-- Unless a put has overrun, the bytes returned and then those held are the bytes put. -/
def RingHistory.Fifo (sp : Space) (h : RingHistory) : Prop :=
  h.noOverrun = true → h.given = h.returned ++ h.ring.contents sp

theorem RingHistory.step_fifo {sp : Space} {h : RingHistory} (hf : h.Fifo sp) (op : RingStep) : (h.step sp op).Fifo sp := by
  cases op with
  | put bytes =>
    intro hno
    obtain ⟨hno, hdrop⟩ : h.noOverrun = true ∧ h.ring.dropped bytes.length = 0 := by simpa [RingHistory.step] using hno
    change h.given ++ bytes = h.returned ++ (h.ring.put bytes).contents sp
    rw [Ring.put_contents_append sp hdrop, hf hno, List.append_assoc]
  | get max =>
    intro hno
    have hn : min max h.ring.used ≤ h.ring.used := min_le_right _ _
    change h.given = h.returned ++ h.ring.peek sp _ ++ (h.ring.advance _).contents sp
    rw [Ring.peek_take _ _ _ hn, Ring.advance_contents _ _ _ hn, List.append_assoc, List.take_append_drop]
    exact hf hno

theorem RingHistory.run_fifo {sp : Space} {h : RingHistory} (hf : h.Fifo sp) (ops : List RingStep) : (h.run sp ops).Fifo sp := by
  induction ops generalizing h with
  | nil => exact hf
  | cons op rest ih => exact ih (RingHistory.step_fifo hf op)

/-- Settles O6: the law holds of the empty ring, and every put without an overrun and every get keeps it. -/
theorem ringFifoLaw : Obligations.RingFifoLaw := by
  intro sp x ops
  exact RingHistory.run_fifo (fun _ => by simp [RingHistory.start]) ops

/-! ### The overrun law (R107) -/

theorem RingHistory.run_append (sp : Space) (h : RingHistory) (ops more : List RingStep) :
    h.run sp (ops ++ more) = (h.run sp ops).run sp more :=
  List.foldl_append ..

/-- A run of puts gives their bytes to the ring, returns none, and leaves the newest `C` of the bytes held and put. -/
theorem RingHistory.run_puts (sp : Space) (h : RingHistory) (puts : List (List Byte)) :
    (h.run sp (puts.map .put)).given = h.given ++ puts.flatten ∧
    (h.run sp (puts.map .put)).returned = h.returned ∧
    (h.run sp (puts.map .put)).ring.contents sp = lastBytes 128 (h.ring.contents sp ++ puts.flatten) := by
  induction puts generalizing h with
  | nil =>
    have hheld : (h.ring.contents sp).length ≤ 128 := by
      rw [Ring.contents_length]
      exact h.ring.used_le
    simp [RingHistory.run, lastBytes_of_length_le hheld]
  | cons bytes rest ih =>
    obtain ⟨hgiven, hreturned, hheld⟩ := ih (h.step sp (.put bytes))
    refine ⟨hgiven.trans (List.append_assoc ..), hreturned, hheld.trans ?_⟩
    change lastBytes 128 ((h.ring.put bytes).contents sp ++ rest.flatten) = _
    rw [Ring.put_contents_newest, lastBytes_lastBytes_append, List.append_assoc, List.flatten_cons]

/-- A get of `C` returns all that the ring holds. -/
theorem RingHistory.run_get_capacity (sp : Space) (h : RingHistory) :
    (h.run sp [.get 128]).returned = h.returned ++ h.ring.contents sp := by
  have hall : min 128 h.ring.used = h.ring.used := min_eq_right h.ring.used_le
  change h.returned ++ h.ring.peek sp (min 128 h.ring.used) = _
  rw [hall]
  rfl

/-- Settles O7: the puts alone are more than `C` bytes, so the newest `C` are theirs, whatever the ring held before. -/
theorem ringOverrunLaw : Obligations.RingOverrunLaw := by
  intro sp x before puts hlen
  simp only [RingHistory.run_append, RingHistory.run_get_capacity]
  obtain ⟨hgiven, hreturned, hheld⟩ := RingHistory.run_puts sp ((RingHistory.start x).run sp before) puts
  have hnewest : (((RingHistory.start x).run sp before).run sp (puts.map .put)).ring.contents sp =
      lastBytes 128 (((RingHistory.start x).run sp before).run sp (puts.map .put)).given := by
    rw [hheld, hgiven, lastBytes_append_right _ hlen.le, lastBytes_append_right _ hlen.le]
  exact ⟨hnewest, by rw [hreturned, hnewest]⟩

end Sys2Proof.Machine
end

section
/-! SUPPORT. The CRC (41_crc): the table step as eight single-bit steps (R123), the residue and the two verifications (R128), and the
engine's instructions for MAIN (R124 to R126). -/

namespace Sys2Proof.Machine

/-! ### The single-bit step (R122, R123)

Every register bit moves down one place, and the bit that falls out feeds the polynomial back; so the step is linear over xor, and one to
one because the polynomial's top bit is set. -/

theorem crcShift_getLsbD (c : Word) (i : Nat) :
    (crcShift c).getLsbD i = (c.getLsbD (i + 1) ^^ (c.getLsbD 0 && (0x8408#16).getLsbD i)) := by
  unfold crcShift
  split <;> simp_all [Nat.add_comm 1 i]

theorem crcShift_eq_xor (c : Word) : crcShift c = (c >>> 1) ^^^ (if c &&& 1#16 = 1#16 then 0x8408#16 else 0#16) := by
  have hbit : c &&& 1#16 = 1#16 ↔ c.getLsbD 0 = true := by
    rw [BitVec.and_one_eq_setWidth_ofBool_getLsbD]
    cases c.getLsbD 0 <;> decide
  simp only [crcShift, hbit]
  split <;> simp

theorem crcShift_xor (c d : Word) : crcShift (c ^^^ d) = crcShift c ^^^ crcShift d := by
  apply BitVec.eq_of_getLsbD_eq
  intro i _
  simp only [crcShift_getLsbD, BitVec.getLsbD_xor, Bool.and_xor_distrib_right, Bool.xor_assoc, Bool.xor_left_comm]

theorem crcShift_injective : Function.Injective crcShift := by
  intro c d h
  have hbit (i : Nat) := congrArg (·.getLsbD i) h
  simp only [crcShift_getLsbD] at hbit
  have hlow : c.getLsbD 0 = d.getLsbD 0 := by simpa using hbit 15
  apply BitVec.eq_of_getLsbD_eq
  rintro (_ | i) _
  · exact hlow
  · exact Bool.xor_left_inj.1 (hlow ▸ hbit i)

theorem crcShift_iterate_xor (n : Nat) (c d : Word) : crcShift^[n] (c ^^^ d) = crcShift^[n] c ^^^ crcShift^[n] d :=
  Function.Semiconj₂.iterate crcShift_xor n c d

/-- While only zeros fall out, nothing is fed back. -/
theorem crcShift_iterate_of_low_zero (n : Nat) (c : Word) (h : ∀ i < n, c.getLsbD i = false) : crcShift^[n] c = c >>> n := by
  induction n generalizing c with
  | zero => simp
  | succ n ih =>
    have hshift : crcShift c = c >>> 1 := if_neg (Bool.eq_false_iff.1 (h 0 n.succ_pos))
    rw [Function.iterate_succ_apply, hshift, ih, ← BitVec.shiftRight_add, Nat.add_comm 1 n]
    intro i hi
    simpa [Nat.add_comm 1 i] using h (i + 1) (by omega)

/-! ### The table step (R123)

Eight steps bring the high byte of a register down and feed back what its low byte's table entry holds. -/

theorem le16_eq_xor (lo hi : Byte) : le16 lo hi = lo.setWidth 16 ^^^ (hi.setWidth 16 <<< 8) := by
  apply BitVec.eq_of_getLsbD_eq
  intro i _
  by_cases h8 : i < 8
  · simp [le16, h8]
  · simp [le16, h8, BitVec.getLsbD_of_ge lo i (by omega)]

theorem crcShift_iterate_highByte (hi : Byte) : crcShift^[8] (hi.setWidth 16 <<< 8) = hi.setWidth 16 := by
  rw [crcShift_iterate_of_low_zero 8 _ fun i hi => by simp [hi]]
  apply BitVec.eq_of_getLsbD_eq
  intro i hi16
  have hwidth (h : hi.getLsbD i = true) : 8 + i < 16 := Nat.add_lt_add_left (BitVec.lt_of_getLsbD h) 8
  simpa [hi16] using hwidth

theorem crcShift_iterate_le16 (lo hi : Byte) : crcShift^[8] (le16 lo hi) = crcTable lo ^^^ hi.setWidth 16 := by
  rw [le16_eq_xor, crcShift_iterate_xor, crcShift_iterate_highByte]
  rfl

/-- The byte is mixed into the low half alone. -/
theorem highByte_xor_byte (c : Word) (b : Byte) : (((c ^^^ b.setWidth 16) >>> 8).setWidth 8).setWidth 16 = c >>> 8 := by
  apply BitVec.eq_of_getLsbD_eq
  intro i hi
  have hwidth (h : c.getLsbD (8 + i) = true) : i < 8 := Nat.lt_of_add_lt_add_left (BitVec.lt_of_getLsbD h)
  simpa [hi] using hwidth

theorem crcStep_eq_iterate (c : Word) (b : Byte) : crcStep c b = crcShift^[8] (c ^^^ b.setWidth 16) := by
  rw [← le16_leBytes (c ^^^ b.setWidth 16), crcShift_iterate_le16, highByte_xor_byte, BitVec.xor_comm]
  rfl

/-- Settles O13: both sides bring the high byte down and feed back the table entry of the mixed low byte. -/
theorem crcTableStepIsBitwise : Obligations.CrcTableStepIsBitwise :=
  ⟨crcStep_eq_iterate, crcShift_eq_xor, by decide⟩

/-! ### The residue (R128) -/

/-- Two table steps are sixteen single-bit steps of the register with both bytes mixed in. -/
theorem crcStep_crcStep (c : Word) (lo hi : Byte) : crcStep (crcStep c lo) hi = crcShift^[16] (c ^^^ le16 lo hi) :=
  calc crcStep (crcStep c lo) hi
      = crcShift^[8] (crcShift^[8] (c ^^^ lo.setWidth 16) ^^^ hi.setWidth 16) := by simp only [crcStep_eq_iterate]
    _ = crcShift^[8] (crcShift^[8] (c ^^^ lo.setWidth 16 ^^^ (hi.setWidth 16 <<< 8))) := by
        rw [crcShift_iterate_xor 8 (c ^^^ lo.setWidth 16), crcShift_iterate_highByte]
    _ = crcShift^[16] (c ^^^ le16 lo hi) := by
        rw [← Function.iterate_add_apply, BitVec.xor_assoc, ← le16_eq_xor]

/-- Sixteen single-bit steps of all ones. -/
theorem crcShift_iterate_allOnes : crcShift^[16] 0xFFFF#16 = 0xF0B8#16 := by simp [crcShift]

theorem crcReg_append_pair (s : List Byte) (lo hi : Byte) :
    crcReg (s ++ [lo, hi]) = crcShift^[16] (crcReg s ^^^ le16 lo hi) := by
  rw [crcReg, List.foldl_append]
  exact crcStep_crcStep _ _ _

theorem crcReg_xor_crc16 (s : List Byte) : crcReg s ^^^ crc16 s = 0xFFFF#16 := by
  rw [crc16, ← BitVec.xor_allOnes, ← BitVec.xor_assoc, BitVec.xor_self, BitVec.zero_xor]
  rfl

/-- The residue is left exactly by the tail that fills the register with ones, which is its complement. -/
theorem crcReg_append_pair_eq_residue_iff (s : List Byte) (lo hi : Byte) :
    crcReg (s ++ [lo, hi]) = 0xF0B8#16 ↔ le16 lo hi = crc16 s := by
  rw [crcReg_append_pair, ← crcShift_iterate_allOnes, (crcShift_injective.iterate 16).eq_iff, ← crcReg_xor_crc16 s,
    BitVec.xor_right_inj]

theorem le16_of_leBytes_eq {v : Word} {lo hi : Byte} (h : leBytes v = [lo, hi]) : le16 lo hi = v := by
  obtain ⟨rfl, rfl⟩ : v.setWidth 8 = lo ∧ (v >>> 8).setWidth 8 = hi := by simpa [leBytes] using h
  exact le16_leBytes v

/-- Settles O14: the checksum's own bytes are one tail, and they read back as the checksum. -/
theorem crcRoundTripAndResidue : Obligations.CrcRoundTripAndResidue := by
  intro s
  exact ⟨fun _ _ => le16_of_leBytes_eq, (crcReg_append_pair_eq_residue_iff s _ _).2 (le16_leBytes _),
    crcReg_append_pair_eq_residue_iff s⟩

/-! ### The engine's instructions for MAIN (R124 to R126) -/

/-- From `s` to `t` nothing changes but the CRC register and the result. -/
structure OnlyCrc (s t : State) : Prop where
  rings : SameRings s t
  staging : SameStaging s t
  stats : SameStats s t
  keys : SameKeys s t
  dispatch : SameDispatch s t
  transport : SameTransport s t
  control : SameControl s t
  events : t.events = s.events

theorem onlyCrc_setCrc (s : State) (acc : Word) (valid : Bool) : OnlyCrc s (s.setCrc acc valid) where
  rings _ := setCrc_ring ..
  staging _ := setCrc_staging ..
  stats := rfl
  keys := rfl
  dispatch := ⟨rfl, rfl⟩
  transport := ⟨fun _ => setCrc_latch .., fun _ => setCrc_wire ..⟩
  control := ⟨rfl, rfl, rfl, rfl, rfl⟩
  events := rfl

theorem OnlyCrc.finish {s t : State} (h : OnlyCrc s t) (x : Result) : OnlyCrc s (t.finish x) :=
  ⟨h.rings, h.staging, h.stats, h.keys, h.dispatch, h.transport, h.control, h.events⟩

/-- The state after CRC.INIT and CRC.STEP: the register holds `acc`, and there is no result. -/
def State.crcAt (s : State) (acc : Word) : State := (s.setCrc acc true).finish .none

theorem onlyCrc_crcAt (s : State) (acc : Word) : OnlyCrc s (s.crcAt acc) := (onlyCrc_setCrc s acc true).finish .none

section Engine

variable {s : State} (ha : s.agent = .main)
include ha

theorem crcInit_eq : exec .crcInit s = .next (s.crcAt 0xFFFF#16) := by
  simp [exec, execCrcInit, ha, State.crcAt]

theorem crcStep_eq (hv : s.crcValid = true) (b : Byte) : exec (.crcStep b) s = .next (s.crcAt (crcStep s.crcAcc b)) := by
  simp [exec, execCrcStep, ha, hv, State.crcAt]

theorem crcRead_eq (hv : s.crcValid = true) : exec .crcRead s = .next (s.finish (.checksum (~~~ s.crcAcc))) := by
  simp [exec, execCrcRead, ha, hv]

/-- The bytes stepped in are folded into the register. -/
theorem execAll_crcSteps (bytes : List Byte) (acc : Word) (rest : List Instr) :
    execAll (bytes.map Instr.crcStep ++ rest) (s.crcAt acc) = execAll rest (s.crcAt (bytes.foldl crcStep acc)) := by
  induction bytes generalizing acc with
  | nil => rfl
  | cons b bytes ih =>
    have hstep : exec (.crcStep b) (s.crcAt acc) = .next (s.crcAt (crcStep acc b)) := crcStep_eq (s := s.crcAt acc) ha rfl b
    simp only [List.map_cons, List.cons_append, execAll, hstep, ih, List.foldl_cons]

end Engine

/-- Settles O10: each instruction ends in its update of the register, and a table step is eight single-bit steps. -/
theorem crcEngineSteps : Obligations.CrcEngineSteps := by
  intro s b ha
  have hinit := onlyCrc_crcAt s 0xFFFF#16
  have hstep := onlyCrc_crcAt s (crcStep s.crcAcc b)
  have hcomplement : s.crcAcc ^^^ 0xFFFF#16 = ~~~ s.crcAcc := BitVec.xor_allOnes
  refine ⟨⟨_, crcInit_eq ha, rfl, rfl, rfl, ?_⟩, fun hv => ⟨⟨_, crcStep_eq ha hv b, crcStep_eq_iterate _ _, rfl, rfl, ?_⟩, ?_⟩⟩
  · exact ⟨hinit.rings, hinit.staging, hinit.stats, hinit.keys, hinit.dispatch, hinit.transport, hinit.control, hinit.events⟩
  · exact ⟨hstep.rings, hstep.staging, hstep.stats, hstep.keys, hstep.dispatch, hstep.transport, hstep.control, hstep.events⟩
  · rw [crcRead_eq ha hv, hcomplement]
    rfl

/-- Settles O11: after CRC.INIT and the steps the register holds `crcReg bytes`, and CRC.READ complements it. -/
theorem crcEngineComputesCrc16 : Obligations.CrcEngineComputesCrc16 := by
  intro s bytes ha
  have hrun : execAll (.crcInit :: (bytes.map Instr.crcStep ++ [.crcRead])) s =
      .next ((s.crcAt (crcReg bytes)).finish (.checksum (crc16 bytes))) := by
    have hread := crcRead_eq (s := s.crcAt (crcReg bytes)) ha rfl
    
    simp only [execAll, crcInit_eq ha, execAll_crcSteps ha]
    rw [← crcReg, hread]
    rfl
  have hframe := (onlyCrc_crcAt s (crcReg bytes)).finish (.checksum (crc16 bytes))
  exact ⟨_, hrun, rfl, rfl, rfl, hframe.rings, hframe.staging, hframe.stats, hframe.dispatch, hframe.transport, hframe.control⟩

end Sys2Proof.Machine
end

section
/-! SUPPORT. The decoder (42_decoder) but for what a pass does: the counter law (R145, R249), lookup (R142), misuse (R141, R174)
and DEC.FILL (R140). -/

namespace Sys2Proof.Machine

/-! ### The counter law (R145, R249) -/

/-- Every way a trip can end counts the attempt and one outcome. -/
theorem Stats.balanced_attempt {x : Stats} (h : x.balanced) {n : StatName}
    (hn : n = .badId ∨ n = .badSize ∨ n = .badChecksum ∨ n = .incomplete ∨ n = .dispatched) :
    ((x.bump .framesAttempted).bump n).balanced := by
  simp only [Stats.balanced] at h
  obtain rfl | rfl | rfl | rfl | rfl := hn <;> simp only [Stats.balanced, Stats.bump, h] <;> ring

theorem passLoop_balanced {s : State} (h : s.stats.balanced) (ch : Channel) (fuel : Nat) :
    (passLoop ch fuel s).stats.balanced := by
  refine passLoop_induction (P := fun u => u.stats.balanced) (Q := fun u => u.stats.balanced) ?_ ?_ ?_ fuel s h
  · intro u t hu ha
    obtain ⟨-, n, e, hn, rfl⟩ := attempt_again ha
    simpa [State.reject] using Stats.balanced_attempt hu (n := n) (by tauto)
  · intro u t hu ha
    obtain ⟨-, rfl⟩ | ⟨-, ⟨id, req, -, rfl⟩ | ⟨n, -, rfl⟩⟩ := attempt_done ha
    · exact hu
    · simpa using Stats.balanced_attempt hu (n := .incomplete) (by simp)
    · simpa using Stats.balanced_attempt hu (n := .dispatched) (by simp)
  · exact fun u hu => hu

theorem effect_balanced {i : Instr} {s t : State} (h : s.stats.balanced) (he : Effect i s t) : t.stats.balanced := by
  cases he
  case pass ch _ _ => exact passLoop_balanced h ch _
  case returns hr =>
    obtain ⟨-, run, -, -, rfl⟩ := handlerReturn_ok hr
    simpa [Stats.bump] using h
  case sends hs =>
    obtain ⟨-, -, -, d, -, rfl⟩ := encSend_ok hs
    simpa using h
  all_goals simpa using h

/-- Settles O45: a trip counts its attempt and its one outcome, a return counts neither, and no other effect counts. -/
theorem stepKeepsCountersBalanced : Obligations.StepKeepsCountersBalanced := by
  intro s t hbal h
  obtain rfl | ⟨rest, -, rfl⟩ | ⟨i, u, ⟨ag, d, rest, rfl⟩, -, he, -⟩ := step_effect h
  · exact hbal
  · rfl
  · exact effect_balanced (s := { s with agent := ag, draw := d, pending := rest }) hbal he

/-! ### Lookup (R142) -/

theorem lookup_eq_none_iff {table : List Descriptor} {id : Byte} : lookup table id = none ↔ ∀ d ∈ table, d.commandId ≠ id := by
  simp [lookup]

theorem lookup_eq_some_iff_first {table : List Descriptor} {id : Byte} {d : Descriptor} : lookup table id = some d ↔
    ∃ before rest, table = before ++ d :: rest ∧ d.commandId = id ∧ ∀ e ∈ before, e.commandId ≠ id := by
  rw [lookup, List.find?_eq_some_iff_append]
  simp only [beq_iff_eq, Bool.not_eq_eq_eq_not, Bool.not_true, beq_eq_false_iff_ne]
  exact ⟨fun ⟨hid, before, rest, htable, hfirst⟩ => ⟨before, rest, htable, hid, hfirst⟩,
    fun ⟨before, rest, htable, hid, hfirst⟩ => ⟨hid, before, rest, htable, hfirst⟩⟩

theorem mem_of_lookup {table : List Descriptor} {id : Byte} {d : Descriptor} (h : lookup table id = some d) :
    d ∈ table ∧ d.commandId = id :=
  ⟨List.mem_of_find?_eq_some h, by simpa using List.find?_some h⟩

/-- On a well-formed table the entry of an id is the only one (R142, R170 (a)). -/
theorem lookup_eq_some_iff_mem {table : List Descriptor} (hwf : tableWf table = true) {id : Byte} {d : Descriptor} :
    lookup table id = some d ↔ d ∈ table ∧ d.commandId = id :=
  ⟨mem_of_lookup, fun ⟨hmem, hid⟩ => hid ▸ lookup_of_mem hwf hmem⟩

/-- What lookup finds in a permuted table stands in the well-formed one, where it is the only entry of its id. -/
theorem lookup_perm {table other : List Descriptor} (hwf : tableWf table = true) (hp : table.Perm other) (id : Byte) :
    lookup other id = lookup table id := by
  cases ho : lookup other id with
  | none =>
    exact (lookup_eq_none_iff.2 fun d hd => lookup_eq_none_iff.1 ho d (hp.mem_iff.1 hd)).symm
  | some d =>
    obtain ⟨hmem, hid⟩ := mem_of_lookup ho
    exact ((lookup_eq_some_iff_mem hwf).2 ⟨hp.mem_iff.2 hmem, hid⟩).symm

/-- Settles O15: lookup is the library's first match, and distinct ids leave one match. -/
theorem lookupFindsTheEntry : Obligations.LookupFindsTheEntry := fun _ id =>
  ⟨fun _ => lookup_eq_some_iff_first, lookup_eq_none_iff,
    fun hwf => ⟨fun _ => lookup_eq_some_iff_mem hwf, fun _ hp => lookup_perm hwf hp id⟩⟩

/-! ### Misuse (R141, R174) -/

/-- Settles O18: the agent is checked first, then whether a handler runs. -/
theorem decoderMisuseRaisesFault : Obligations.DecoderMisuseRaisesFault := by
  intro s ch status
  refine ⟨fun ha => ⟨?_, ?_, ?_⟩, fun ha hr => ⟨?_, ?_⟩⟩
  · simp [exec, execDecFill, ha, raise_eq_marked]
  · simp [exec, execDecPass, ha, raise_eq_marked]
  · simp [exec, execHndRet, handlerReturn, ha, raise_eq_marked]
  · simp [exec, execDecFill, ha, hr, raise_eq_marked]
  · simp [exec, execDecPass, ha, hr, raise_eq_marked]

/-! ### DEC.FILL (R140) -/

/-- Bytes that fit go behind those staged, at any fill. -/
theorem Staging.append_bytes_of_fits (sp : Space) (x : Staging) {new : List Byte} (h : new.length ≤ 256 - x.fill) :
    (x.append new).bytes sp = x.bytes sp ++ new := by
  cases new with
  | nil => simp [Staging.append, Staging.bytes, Cells.writeFrom]
  | cons b rest =>
    rw [List.length_cons] at h
    exact Staging.append_bytes sp x _ (by simp only [List.length_cons, Config.stageCap]; omega)

/-- Adding bytes that fit writes their own cells alone. -/
theorem Staging.append_cells (x : Staging) {new : List Byte} {c : Nat} (h : new.length ≤ 256 - x.fill)
    (hc : ∀ k, k < new.length → c ≠ x.fill + k) : (x.append new).cells.read c = x.cells.read c := by
  refine Cells.read_writeFrom_other _ _ _ _ _ fun k hk => ?_
  rw [Nat.mod_eq_of_lt (by simp only [Config.stageCap]; omega)]
  exact (hc k hk).symm

/-- The state after DEC.FILL (R140). -/
def State.filled (s : State) (ch : Channel) : State :=
  let out := s.front (.inb ch) (256 - (s.staging ch).fill)
  ((s.consume (.inb ch) (256 - (s.staging ch).fill)).setStaging ch ((s.staging ch).append out)).finish (.count out.length)

theorem decFill_eq {s : State} (ch : Channel) (ha : s.agent = .main) (hd : s.decState = .idle) :
    exec (.decFill ch) s = .next (s.filled ch) := by
  simp [exec, execDecFill, State.filled, ha, running_of_idle hd]

/-- Settles O17: what leaves the front of the ring is what fits, and goes behind the staged bytes. -/
theorem decFillMovesBytes : Obligations.DecFillMovesBytes := by
  intro s ch ha hd
  have hlen : (s.front (.inb ch) (256 - (s.staging ch).fill)).length =
      min (256 - (s.staging ch).fill) (s.ring (.inb ch)).used := front_length ..
  have hfits : (s.front (.inb ch) (256 - (s.staging ch).fill)).length ≤ 256 - (s.staging ch).fill := hlen ▸ min_le_left _ _
  have hring : (s.filled ch).ring (.inb ch) =
      (s.ring (.inb ch)).advance (min (256 - (s.staging ch).fill) (s.ring (.inb ch)).used) := by
    simp [State.filled, consume_ring_self]
  have hstage : (s.filled ch).staging ch =
      (s.staging ch).append (s.front (.inb ch) (256 - (s.staging ch).fill)) := by simp [State.filled]
  refine ⟨_, _, rfl, decFill_eq ch ha hd, ?_, ?_, ?_, ?_, ?_, ?_, ?_, ?_, ?_, ?_, ?_, ?_, ?_, ?_, ?_, ?_, ?_⟩
  · simp [State.filled]
  · rw [State.staged, hstage, Staging.append_bytes_of_fits _ _ hfits, ← front_take]
    rfl
  · rw [hstage, Staging.append_fill, hlen]
  · simp [State.filled, consume_contents]
  · rw [hring]
    rfl
  · rw [hring, Ring.advance_tail]
  · intro c
    rw [hring, Ring.advance_store]
  · intro c hc
    rw [hstage, Staging.append_cells _ hfits (hlen ▸ hc)]
  · intro q hq
    simpa [State.filled] using (onlyRing_consume s (.inb ch) _).rings q hq
  · intro c hc
    simp [State.filled, setStaging_staging_other _ _ _ _ hc]
  · simp [State.filled, SameCrc]
  · simp [State.filled, SameStats]
  · simp [State.filled, SameKeys]
  · simp [State.filled, SameDispatch]
  · simp [State.filled, SameTransport]
  · simp [State.filled, SameControl]
  · simp [State.filled]

end Sys2Proof.Machine
end

section
/-! SUPPORT. DEC.PASS: the decoder's checks in their order (R148 to R151, R232), and a pass as a run of rejected attempts and then
the trip that returns (R144 to R154, R158, R159). -/

namespace Sys2Proof.Machine

/-! ### The decoder's checks, from the front byte on (R148 to R151, R232) -/

section Checks

variable {table : List Descriptor} {bytes : List Byte} {d : Descriptor}

theorem judge_unknownId (hl : lookup table (byteAt bytes 0) = none) : judge table bytes = .unknownId (byteAt bytes 0) := by
  simp [judge, hl]

variable (hl : lookup table (byteAt bytes 0) = some d)
include hl

theorem judge_badSize
    (hn : ¬ (d.min ≤ (byteAt bytes 1).toNat ∧ (byteAt bytes 1).toNat ≤ d.max ∧ (byteAt bytes 1).toNat ≤ 252)) :
    judge table bytes = .badSize (byteAt bytes 0) (byteAt bytes 1) := by
  have hrefuses : accepts d (byteAt bytes 1).toNat = false := Bool.eq_false_iff.2 fun h => hn ((accepts_iff d _).1 h)
  simp [judge, hl, hrefuses]

variable (hn : d.min ≤ (byteAt bytes 1).toNat ∧ (byteAt bytes 1).toNat ≤ d.max ∧ (byteAt bytes 1).toNat ≤ 252)
include hn

theorem judge_incomplete (hlen : bytes.length < 4 + (byteAt bytes 1).toNat) :
    judge table bytes = .incomplete (byteAt bytes 0) (4 + (byteAt bytes 1).toNat) := by
  simp [judge, hl, (accepts_iff d _).2 hn, hlen]

theorem judge_badChecksum (hlen : 4 + (byteAt bytes 1).toNat ≤ bytes.length)
    (hcrc : crc16 (bytes.take (2 + (byteAt bytes 1).toNat)) ≠
      le16 (byteAt bytes (2 + (byteAt bytes 1).toNat)) (byteAt bytes (3 + (byteAt bytes 1).toNat))) :
    judge table bytes = .badChecksum (byteAt bytes 0) (crc16 (bytes.take (2 + (byteAt bytes 1).toNat)))
      (le16 (byteAt bytes (2 + (byteAt bytes 1).toNat)) (byteAt bytes (3 + (byteAt bytes 1).toNat))) := by
  simp [judge, hl, (accepts_iff d _).2 hn, Nat.not_lt.2 hlen, hcrc]

end Checks

/-- A frame that a pass waits for is longer than what is staged, and at most 256 bytes long (R143, R150). -/
theorem judge_incomplete_length {table : List Descriptor} {bytes : List Byte} {id : Byte} {req : Nat}
    (h : judge table bytes = .incomplete id req) : bytes.length < 256 := by
  unfold judge at h
  dsimp only at h
  split at h
  · cases h
  · next d _ =>
    split at h
    · cases h
    · next hacc =>
      obtain ⟨-, -, hn⟩ := (accepts_iff d _).1 (by simpa using hacc)
      split at h
      · next hlen => exact lt_of_lt_of_le hlen (Nat.add_le_add_left hn 4)
      · split at h <;> cases h

/-! ### What the decoder writes (R145, R147, R152) -/

/-- From `s` to `t` nothing changes but the staging buffer of `ch`, the counters, the control state, the invocations, the events
and the result. -/
structure OnlyDecoding (ch : Channel) (s t : State) : Prop where
  rings : SameRings s t
  staging : SameStagingBut ch s t
  crc : SameCrc s t
  keys : SameKeys s t
  transport : SameTransport s t
  control : SameControl s t

theorem OnlyDecoding.refl (ch : Channel) (s : State) : OnlyDecoding ch s s :=
  ⟨fun _ => rfl, fun _ _ => rfl, ⟨rfl, rfl⟩, rfl, ⟨fun _ => rfl, fun _ => rfl⟩, ⟨rfl, rfl, rfl, rfl, rfl⟩⟩

theorem OnlyDecoding.trans {ch : Channel} {s u t : State} (h : OnlyDecoding ch s u) (k : OnlyDecoding ch u t) :
    OnlyDecoding ch s t where
  rings q := (k.rings q).trans (h.rings q)
  staging c hc := (k.staging c hc).trans (h.staging c hc)
  crc := ⟨k.crc.1.trans h.crc.1, k.crc.2.trans h.crc.2⟩
  keys := k.keys.trans h.keys
  transport := ⟨fun c => (k.transport.1 c).trans (h.transport.1 c), fun c => (k.transport.2 c).trans (h.transport.2 c)⟩
  control := by
    obtain ⟨hf, hc, ha, hd, hp⟩ := h.control
    obtain ⟨kf, kc, ka, kd, kp⟩ := k.control
    exact ⟨kf.trans hf, kc.trans hc, ka.trans ha, kd.trans hd, kp.trans hp⟩

theorem onlyDecoding_reject (ch : Channel) (s : State) (n : StatName) (e : Event) :
    OnlyDecoding ch s ((s.count .framesAttempted).reject ch n e) where
  rings q := by simp [State.reject]
  staging c hc := by simp [State.reject, State.resync, setStaging_staging_other _ _ _ _ hc]
  crc := by simp [SameCrc, State.reject]
  keys := by simp [SameKeys, State.reject]
  transport := by simp [SameTransport, State.reject]
  control := by simp [SameControl, State.reject]

/-- A trip that returns discards no byte, and writes no more than the decoder does. -/
theorem attempt_done_frame {ch : Channel} {s t : State} (h : attempt ch s = .done t) :
    OnlyDecoding ch s t ∧ SameStaging s t := by
  obtain ⟨-, rfl⟩ | ⟨-, ⟨id, req, -, rfl⟩ | ⟨n, -, rfl⟩⟩ := attempt_done h <;>
    exact ⟨⟨fun _ => by simp, fun _ _ => by simp, by simp [SameCrc], by simp [SameKeys], by simp [SameTransport],
      by simp [SameControl]⟩, fun _ => by simp⟩

theorem staged_of_sameStaging {s t : State} (h : SameStaging s t) (ch : Channel) : t.staged ch = s.staged ch := by
  simp [State.staged, h ch]

/-! ### A pass that returns on its first trip (R145, R150) -/

/-- A trip that returns ends the pass. -/
theorem decPass_done {s t : State} {ch : Channel} (ha : s.agent = .main) (hd : s.decState = .idle)
    (h : attempt ch s = .done t) : exec (.decPass ch) s = .next t := by
  rw [decPass_eq ha hd, ← passLoop_fuel ch _ s le_rfl, passLoop, h]

/-- Settles O19: the first trip returns before it counts. -/
theorem decPassNeedsFourBytes : Obligations.DecPassNeedsFourBytes := by
  intro s ch ha hd hfill
  have hdone : attempt ch s = .done (s.finish .noCommand) := by simp [attempt, hfill]
  exact decPass_done ha hd hdone

/-- Settles O21: the first trip finds the frame incomplete and returns. -/
theorem decPassWaitsForFrame : Obligations.DecPassWaitsForFrame := by
  intro s ch d n ha hd hfill hn hl hmin hmax hcap hlen
  subst hn
  have hj := judge_incomplete hl ⟨hmin, hmax, hcap⟩ (by simpa using hlen)
  have hdone : attempt ch s = .done ((((s.count .framesAttempted).count .incomplete).record (.incompleteFrame ch
      (byteAt (s.staged ch) 0) (s.staging ch).fill (4 + (byteAt (s.staged ch) 1).toNat))).finish .noCommand) := by
    simp [attempt, Nat.not_lt.2 hfill, hj]
  obtain ⟨hframe, hstaging⟩ := attempt_done_frame hdone
  exact ⟨_, decPass_done ha hd hdone, rfl, rfl, rfl, hframe.rings, hstaging, hframe.crc, hframe.keys, ⟨rfl, rfl⟩,
    hframe.transport, hframe.control⟩

/-! ### Rejected attempts (R147 to R149, R151) -/

/-- Settles O20: each of the three verdicts is a rejection, after which the pass goes on. -/
theorem decPassResyncsByOne : Obligations.DecPassResyncsByOne := by
  intro s ch ha hd hfill hcap n name e hn hreject
  subst hn
  have hagain : attempt ch s = .again ((s.count .framesAttempted).reject ch name e) := by
    obtain ⟨hl, rfl, rfl⟩ | ⟨d, hl, hsize, rfl, rfl⟩ | ⟨d, hl, hmin, hmax, h252, hlen, hcrc, rfl, rfl⟩ := hreject
    · simp [attempt, Nat.not_lt.2 hfill, judge_unknownId hl]
    · simp [attempt, Nat.not_lt.2 hfill, judge_badSize hl hsize]
    · simp [attempt, Nat.not_lt.2 hfill, judge_badChecksum hl ⟨hmin, hmax, h252⟩ (by simpa using hlen) hcrc]
  have hframe := onlyDecoding_reject ch s name e
  refine ⟨_, decPass_again ha hd hagain, ?_, by simp, fun c hc => ?_, by simp [State.reject], by simp [State.reject],
    hframe.rings, hframe.staging, hframe.crc, hframe.keys, by simp [SameDispatch, State.reject], hframe.transport,
    hframe.control⟩
  · rw [reject_staged _ _ _ _ (by simpa using hcap), count_staged]
  · simpa [State.reject, State.resync] using Staging.resync_cells (.stage ch) (s.staging ch) c hcap hc

/-- From `s` to `t` the pass has made `k` attempts and rejected each. -/
structure Resynced (ch : Channel) (k : Nat) (s t : State) : Prop where
  fill : (t.staging ch).fill + k = (s.staging ch).fill
  bound : k ≤ (s.staging ch).fill - 3
  staged : (s.staging ch).fill ≤ 256 → t.staged ch = (s.staged ch).drop k
  attempted : t.stats.framesAttempted = s.stats.framesAttempted + BitVec.ofNat 32 k
  rejected : t.stats.badId + t.stats.badSize + t.stats.badChecksum =
    s.stats.badId + s.stats.badSize + s.stats.badChecksum + BitVec.ofNat 32 k
  dispatched : t.stats.dispatched = s.stats.dispatched
  completed : t.stats.dispatchedCompleted = s.stats.dispatchedCompleted
  frame : OnlyDecoding ch s t
  dispatch : SameDispatch s t

theorem Resynced.refl (ch : Channel) (s : State) : Resynced ch 0 s s where
  fill := rfl
  bound := Nat.zero_le _
  staged _ := rfl
  attempted := (BitVec.add_zero _).symm
  rejected := (BitVec.add_zero _).symm
  dispatched := rfl
  completed := rfl
  frame := .refl ch s
  dispatch := ⟨rfl, rfl⟩

/-- One more rejection in front. -/
theorem Resynced.step {ch : Channel} {k : Nat} {s u t : State} (hu : attempt ch s = .again u) (h : Resynced ch k u t) :
    Resynced ch (k + 1) s t := by
  obtain ⟨hfill, n, e, hn, rfl⟩ := attempt_again hu
  simp only [Config.minFrame] at hfill
  have hfillu : (((s.count .framesAttempted).reject ch n e).staging ch).fill = (s.staging ch).fill - 1 := by simp
  have hk : BitVec.ofNat 32 (k + 1) = BitVec.ofNat 32 k + 1 := BitVec.ofNat_add ..
  have hfillt := h.fill
  have hbound := h.bound
  rw [hfillu] at hfillt hbound
  have hstats : ((s.count .framesAttempted).reject ch n e).stats = (s.stats.bump .framesAttempted).bump n := by
    simp [State.reject]
  refine ⟨by omega, by omega, fun hcap => ?_, ?_, ?_, ?_, ?_, (onlyDecoding_reject ch s n e).trans h.frame, ?_⟩
  · rw [h.staged (by omega), reject_staged _ _ _ _ (by simpa using hcap), count_staged, List.drop_drop, Nat.add_comm 1 k]
  · rw [h.attempted, hstats, hk]
    obtain rfl | rfl | rfl := hn <;> simp only [Stats.bump] <;> ring
  · rw [h.rejected, hstats, hk]
    obtain rfl | rfl | rfl := hn <;> simp only [Stats.bump] <;> ring
  · rw [h.dispatched, hstats]
    obtain rfl | rfl | rfl := hn <;> rfl
  · rw [h.completed, hstats]
    obtain rfl | rfl | rfl := hn <;> rfl
  · simpa [SameDispatch, State.reject] using h.dispatch

theorem Resynced.agent {ch : Channel} {k : Nat} {s t : State} (h : Resynced ch k s t) : t.agent = s.agent := by
  obtain ⟨-, -, hagent, -⟩ := h.frame.control
  exact hagent

theorem Resynced.config {ch : Channel} {k : Nat} {s t : State} (h : Resynced ch k s t) : t.config = s.config := by
  obtain ⟨-, hconfig, -⟩ := h.frame.control
  exact hconfig

theorem Resynced.decState {ch : Channel} {k : Nat} {s t : State} (h : Resynced ch k s t) : t.decState = s.decState := h.dispatch.1

/-! ### What a pass does (R144, R154) -/

/-- A pass is a run of rejected attempts, and then the trip that returns. -/
theorem passLoop_resynced (ch : Channel) : ∀ (fuel : Nat) (s : State), (s.staging ch).fill ≤ fuel →
    ∃ k u, Resynced ch k s u ∧ attempt ch u = .done (passLoop ch fuel s) := by
  intro fuel
  induction fuel with
  | zero =>
    intro s hfill
    have hshort : (s.staging ch).fill < Config.minFrame := by simp only [Config.minFrame]; omega
    exact ⟨0, s, .refl ch s, by simp [attempt, passLoop, hshort]⟩
  | succ fuel ih =>
    intro s hfill
    cases hs : attempt ch s with
    | done t => exact ⟨0, s, .refl ch s, by simp [passLoop, hs]⟩
    | again t =>
      have hfillt : (t.staging ch).fill ≤ fuel := by
        obtain ⟨-, n, e, -, rfl⟩ := attempt_again hs
        simp; omega
      obtain ⟨k, u, hrun, hdone⟩ := ih t hfillt
      exact ⟨k + 1, u, .step hs hrun, by simp [passLoop, hs, hdone]⟩

theorem decPass_resynced {s : State} (ch : Channel) (ha : s.agent = .main) (hd : s.decState = .idle) :
    ∃ k u t, exec (.decPass ch) s = .next t ∧ Resynced ch k s u ∧ attempt ch u = .done t := by
  obtain ⟨k, u, hrun, hdone⟩ := passLoop_resynced ch _ s le_rfl
  exact ⟨k, u, _, decPass_eq ha hd, hrun, hdone⟩

/-- The trip that returns makes one attempt where there are four bytes, none where there are fewer, and counts no rejection. -/
theorem attempt_done_stats {ch : Channel} {s t : State} (h : attempt ch s = .done t) :
    (∃ more, more ≤ (s.staging ch).fill - 3 ∧ more ≤ 1 ∧
      t.stats.framesAttempted = s.stats.framesAttempted + BitVec.ofNat 32 more) ∧
    t.stats.badId = s.stats.badId ∧ t.stats.badSize = s.stats.badSize ∧ t.stats.badChecksum = s.stats.badChecksum := by
  obtain ⟨-, rfl⟩ | ⟨hfill, hcases⟩ := attempt_done h
  · exact ⟨⟨0, Nat.zero_le _, Nat.zero_le _, (BitVec.add_zero _).symm⟩, rfl, rfl, rfl⟩
  · refine ⟨⟨1, by simp only [Config.minFrame] at hfill; omega, le_rfl, ?_⟩, ?_⟩ <;>
      obtain ⟨id, req, -, rfl⟩ | ⟨n, -, rfl⟩ := hcases
    · rfl
    · rfl
    · exact ⟨rfl, rfl, rfl⟩
    · exact ⟨rfl, rfl, rfl⟩

/-- Settles O23: every rejection leaves three bytes or more, and so does the last attempt. -/
theorem decPassIsBounded : Obligations.DecPassIsBounded := by
  intro s ch ha hd hcap
  obtain ⟨k, u, t, hexec, hrun, hdone⟩ := decPass_resynced ch ha hd
  obtain ⟨hframe, hstaging⟩ := attempt_done_frame hdone
  obtain ⟨⟨more, hroom, -, hattempted⟩, hid, hsize, hcrc⟩ := attempt_done_stats hdone
  have hall := hrun.frame.trans hframe
  have hfill := hrun.fill
  have hbound := hrun.bound
  refine ⟨t, k + more, k, hexec, by omega, Nat.le_add_right _ _, ?_, ?_, ?_, hall.rings, hall.staging, hall.crc, hall.keys,
    hall.transport, hall.control⟩
  · rw [hattempted, hrun.attempted, BitVec.ofNat_add, BitVec.add_assoc]
  · rw [hid, hsize, hcrc, hrun.rejected]
  · rw [staged_of_sameStaging hstaging, hrun.staged hcap]

/-- Settles O24: rejected attempts invoke nothing, and the trip that returns either waits or makes its one dispatch. -/
theorem decPassInvokesAtMostOne : Obligations.DecPassInvokesAtMostOne := by
  intro s ch ha hd
  obtain ⟨k, u, t, hexec, hrun, hdone⟩ := decPass_resynced ch ha hd
  obtain ⟨hidle, hinv⟩ := hrun.dispatch
  rw [hd] at hidle
  refine ⟨t, hexec, ?_⟩
  rw [← hrun.dispatched, ← hrun.completed, ← hinv]
  obtain ⟨-, rfl⟩ | ⟨-, ⟨id, req, -, rfl⟩ | ⟨n, -, rfl⟩⟩ := attempt_done hdone
  · exact ⟨.inl ⟨rfl, hidle, rfl, rfl⟩, rfl⟩
  · exact ⟨.inl ⟨rfl, hidle, rfl, rfl⟩, rfl⟩
  · exact ⟨.inr ⟨rfl, rfl, _, rfl, rfl, rfl, rfl⟩, rfl⟩

/-- Settles O26: a trip that returns without a dispatch has fewer than 256 bytes staged, and leaves them. -/
theorem decPassOnFullBufferProgresses : Obligations.DecPassOnFullBufferProgresses := by
  intro s ch ha hd _
  obtain ⟨k, u, t, hexec, -, hdone⟩ := decPass_resynced ch ha hd
  refine ⟨t, hexec, ?_⟩
  obtain ⟨hfill, rfl⟩ | ⟨-, ⟨id, req, hj, rfl⟩ | ⟨n, -, rfl⟩⟩ := attempt_done hdone
  · exact .inr (by simpa using lt_trans hfill (by decide))
  · exact .inr (by simpa using judge_incomplete_length hj)
  · exact .inl rfl

/-! ### Noise in front of a frame (R158) -/

theorem attempt_rejected {ch : Channel} {s : State} (hfill : 4 ≤ (s.staging ch).fill)
    (h : rejected (tableOf s.config) (s.staged ch) = true) : ∃ u, attempt ch s = .again u := by
  cases hj : judge (tableOf s.config) (s.staged ch)
  case incomplete => simp [rejected, hj] at h
  case valid => simp [rejected, hj] at h
  all_goals simp [attempt, Nat.not_lt.2 hfill, hj]

/-- Where the first `m` attempts are rejected, the pass goes on from the state after them. -/
theorem decPass_skips {ch : Channel} (m : Nat) {s : State} (ha : s.agent = .main) (hd : s.decState = .idle)
    (hcap : (s.staging ch).fill ≤ 256) (hroom : m + 3 ≤ (s.staging ch).fill)
    (hrej : ∀ k < m, rejected (tableOf s.config) ((s.staged ch).drop k) = true) :
    ∃ u, exec (.decPass ch) s = exec (.decPass ch) u ∧ Resynced ch m s u := by
  induction m generalizing s with
  | zero => exact ⟨s, rfl, .refl ch s⟩
  | succ m ih =>
    obtain ⟨v, hv⟩ := attempt_rejected (by omega) (hrej 0 m.succ_pos)
    have hone : Resynced ch 1 s v := .step hv (.refl ch v)
    have hfill := hone.fill
    have hrest (k : Nat) (hk : k < m) : rejected (tableOf v.config) ((v.staged ch).drop k) = true := by
      rw [hone.config, hone.staged hcap, List.drop_drop, Nat.add_comm]
      exact hrej (k + 1) (Nat.succ_lt_succ hk)
    obtain ⟨u, hexec, hrun⟩ := ih (hone.agent.trans ha) (hone.decState.trans hd) (by omega) (by omega) hrest
    exact ⟨u, (decPass_again ha hd hv).trans hexec, .step hv hrun⟩

/-- Settles O27: the noise is skipped byte by byte, and the frame behind it is at the front then. -/
theorem decPassDropsNoiseThenDispatches : Obligations.DecPassDropsNoiseThenDispatches := by
  intro s ch d noise id p rest ha hd hcap hs hl hmin hmax hp hrej
  have hlen : (s.staging ch).fill = noise.length + (p.length + 4) + rest.length := by
    rw [← staged_length, hs, List.length_append, List.length_append, frameOf_length]
  obtain ⟨u, hskip, hrun⟩ := decPass_skips noise.length ha hd hcap (by omega) hrej
  have hstaged : u.staged ch = frameOf id p ++ rest := by
    rw [hrun.staged hcap, hs, List.append_assoc, List.drop_left]
  obtain ⟨t, hexec, hresult, hdec, -, hstats, -, -, hstaging, -⟩ := decPassDispatchesValidFrame u ch d id p rest
    (hrun.agent.trans ha) (hrun.decState.trans hd) hstaged (hrun.config ▸ hl) hmin hmax hp
  refine ⟨t, hskip.trans hexec, hresult, hdec, (staged_of_sameStaging hstaging ch).trans hstaged, ?_, ?_⟩
  · rw [hstats, BitVec.ofNat_add, ← BitVec.add_assoc, ← hrun.attempted]
    rfl
  · rw [hstats, ← hrun.rejected]
    rfl

end Sys2Proof.Machine
end

section
/-! SUPPORT. Partial delivery (R157): a frame delivered one byte at a time is staged byte by byte, and its last byte
dispatches it. -/

namespace Sys2Proof.Machine

/-! ### One byte through the inbound ring (R83, R140, R157) -/

theorem execAll_singleton (i : Instr) (s : State) : execAll [i] s = exec i s := by
  simp only [execAll]
  split <;> simp_all

/-- From `s` the byte `b` has gone through the empty inbound ring to the staging buffer, and MAIN's pass comes next. -/
structure Fed (ch : Channel) (b : Byte) (s u : State) : Prop where
  staged : u.staged ch = s.staged ch ++ [b]
  empty : (u.ring (.inb ch)).used = 0
  agent : u.agent = .main
  idle : u.decState = .idle
  invocations : u.invocations = s.invocations
  stats : u.stats = s.stats
  config : u.config = s.config

/-- A put into an empty ring leaves the byte alone in it. -/
theorem contents_of_putsInto_empty {r : RingId} {b : Byte} {s t : State} (he : (s.ring r).used = 0) (h : PutsInto r [b] s t) :
    t.contents r = [b] := by
  obtain ⟨hcontents, -⟩ := h
  have hnil : s.contents r = [] := List.eq_nil_of_length_eq_zero ((Ring.contents_length _ _).trans he)
  rw [hcontents, hnil, he]
  rfl

theorem used_eq_length (s : State) (r : RingId) : (s.ring r).used = (s.contents r).length :=
  (Ring.contents_length _ _).symm

/-- In Idle, with room for one more byte, delivering a byte is feeding it and then making a pass. -/
theorem deliverByte_fed {s : State} {ch : Channel} (b : Byte) (hd : s.decState = .idle) (he : (s.ring (.inb ch)).used = 0)
    (hroom : (s.staging ch).fill < 256) : ∃ u, deliverByte ch b s = exec (.decPass ch) u ∧ Fed ch b s u := by
  obtain ⟨v, hput, hputs, -, hvstaging, hvstats, -, ⟨hvdec, hvinv⟩, -, ⟨-, hvconfig, -⟩, -⟩ :=
    ringPutKeepsNewest { s with agent := .rx ch } (.inb ch) [b] rfl
  have hvcontents : v.contents (.inb ch) = [b] := contents_of_putsInto_empty he hputs
  obtain ⟨u, n, hn, hfill, -, hstaged, -, hcontents, -, -, -, -, -, -, -, hstats, -, ⟨hdec, hinv⟩, -,
    ⟨-, hconfig, hagent, -⟩, -⟩ := decFillMovesBytes { v with agent := .main } ch rfl (hvdec.trans hd)
  have hvused : (v.ring (.inb ch)).used = 1 := by rw [used_eq_length, hvcontents]; rfl
  have hn1 : n = 1 := by
    have hvfill : (v.staging ch).fill = (s.staging ch).fill := congrArg Staging.fill (hvstaging ch)
    have hmin : n = min (256 - (v.staging ch).fill) (v.ring (.inb ch)).used := hn
    omega
  refine ⟨u, ?_, ?_, ?_, hagent, hdec.trans (hvdec.trans hd), hinv.trans hvinv, hstats.trans hvstats,
    hconfig.trans hvconfig⟩
  · simp only [deliverByte, hput]
    rw [execAll, hfill]
    exact execAll_singleton ..
  · rw [hstaged, hn1]
    exact congrArg₂ (· ++ ·) (staged_of_sameStaging hvstaging ch) (congrArg (List.take 1) hvcontents)
  · rw [used_eq_length, hcontents, hn1]
    exact congrArg (fun l => (List.drop 1 l).length) hvcontents

theorem deliver_append {ch : Channel} {s t : State} {bytes : List Byte} (more : List Byte) (h : deliver ch bytes s = .next t) :
    deliver ch (bytes ++ more) s = deliver ch more t := by
  induction bytes generalizing s with
  | nil =>
    cases h
    rfl
  | cons b rest ih =>
    rw [deliver] at h
    rw [List.cons_append, deliver]
    split at h
    · exact ih h
    · cases h
    · cases h

theorem deliver_singleton {ch : Channel} {b : Byte} {s t : State} (h : deliverByte ch b s = .next t) :
    deliver ch [b] s = .next t := by
  simp [deliver, h]

/-! ### Before the last byte -/

/-- The counters after `n` attempts that found the frame incomplete (R145, R150). -/
def Stats.waited (x : Stats) (n : Nat) : Stats :=
  { x with
    framesAttempted := x.framesAttempted + BitVec.ofNat 32 n
    incomplete := x.incomplete + BitVec.ofNat 32 n }

theorem Stats.waited_zero (x : Stats) : x.waited 0 = x := by simp [Stats.waited]

theorem Stats.waited_waited (x : Stats) (m n : Nat) : (x.waited m).waited n = x.waited (m + n) := by
  simp [Stats.waited, BitVec.ofNat_add, BitVec.add_assoc]

/-- The header of a frame can be read from its first bytes. -/
theorem frameOf_take_header (id : Byte) {p : List Byte} (hp : p.length ≤ 252) {k : Nat} (hk : 2 ≤ k) :
    byteAt ((frameOf id p).take k) 0 = id ∧ (byteAt ((frameOf id p).take k) 1).toNat = p.length := by
  obtain ⟨h0, h1, -⟩ := frameOf_bytes id p [] hp
  rw [List.append_nil] at h0 h1
  exact ⟨(byteAt_take (by omega)).trans h0, (congrArg BitVec.toNat (byteAt_take (by omega))).trans h1⟩

/-- From `s`, the first `k` bytes of the frame are staged, nothing is inbound, and every pass has waited. -/
structure PartlyDelivered (ch : Channel) (frame : List Byte) (k : Nat) (s t : State) : Prop where
  result : 0 < k → t.result = .noCommand
  idle : t.decState = .idle
  invocations : t.invocations = s.invocations
  staged : t.staged ch = frame.take k
  empty : (t.ring (.inb ch)).used = 0
  stats : t.stats = s.stats.waited (k - 3)
  config : t.config = s.config

section Delivery

variable {ch : Channel} {id : Byte} {p : List Byte} (hp : p.length ≤ 252)

include hp

/-- The next byte of a frame finds room in the staging buffer. -/
theorem PartlyDelivered.feed {s t : State} {k : Nat} (h : PartlyDelivered ch (frameOf id p) k s t)
    (hk : k < (frameOf id p).length) :
    ∃ u, deliverByte ch (frameOf id p)[k] t = exec (.decPass ch) u ∧ Fed ch (frameOf id p)[k] t u ∧
      u.staged ch = (frameOf id p).take (k + 1) := by
  have hfill : (t.staging ch).fill ≤ k := by
    rw [← staged_length, h.staged]
    exact List.length_take_le ..
  have hlen := frameOf_length id p
  obtain ⟨u, hexec, hfed⟩ := deliverByte_fed (frameOf id p)[k] h.idle h.empty (by omega)
  exact ⟨u, hexec, hfed, by rw [hfed.staged, h.staged, List.take_append_getElem]⟩

variable {d : Descriptor} (hmin : d.min ≤ p.length) (hmax : p.length ≤ d.max)

include hmin hmax

/-- A pass on a frame that lacks its last bytes has too few bytes for an attempt, or its one attempt waits (R145, R150). -/
theorem decPass_partialFrame {u : State} {k : Nat} (hl : lookup (tableOf u.config) id = some d) (ha : u.agent = .main)
    (hd : u.decState = .idle) (hs : u.staged ch = (frameOf id p).take k) (hk : k < 4 + p.length) :
    ∃ v, exec (.decPass ch) u = .next v ∧ v.result = .noCommand ∧ v.stats = u.stats.waited (if k < 4 then 0 else 1) ∧
      SameRings u v ∧ SameStaging u v ∧ SameDispatch u v ∧ SameControl u v := by
  have hfill : (u.staging ch).fill = k := by
    rw [← staged_length, hs, List.length_take, frameOf_length]
    omega
  by_cases hshort : k < 4
  · rw [if_pos hshort]
    exact ⟨_, decPassNeedsFourBytes u ch ha hd (hfill ▸ hshort), rfl, u.stats.waited_zero.symm, fun _ => rfl, fun _ => rfl,
      ⟨rfl, rfl⟩, ⟨rfl, rfl, rfl, rfl, rfl⟩⟩
  · rw [if_neg hshort]
    obtain ⟨h0, h1⟩ := frameOf_take_header id hp (k := k) (by omega)
    rw [← hs] at h0 h1
    obtain ⟨v, hexec, hresult, hstats, -, hrings, hstaging, -, -, hdispatch, -, hcontrol⟩ :=
      decPassWaitsForFrame u ch d p.length ha hd (by omega) h1.symm (h0 ▸ hl) hmin hmax hp (by omega)
    exact ⟨v, hexec, hresult, hstats, hrings, hstaging, hdispatch, hcontrol⟩

variable {s : State} (hl : lookup (tableOf s.config) id = some d)

include hl

theorem PartlyDelivered.next {t : State} {k : Nat} (h : PartlyDelivered ch (frameOf id p) k s t) (hk : k + 1 < 4 + p.length) :
    ∃ v, deliver ch [(frameOf id p)[k]'(by rw [frameOf_length]; omega)] t = .next v ∧
      PartlyDelivered ch (frameOf id p) (k + 1) s v := by
  obtain ⟨u, hbyte, hfed, hstaged⟩ := h.feed hp (by rw [frameOf_length]; omega)
  have hconfig := hfed.config.trans h.config
  obtain ⟨v, hpass, hresult, hstats, hrings, hstaging, ⟨hdec, hinv⟩, -, hvconfig, -⟩ :=
    decPass_partialFrame hp hmin hmax (hconfig ▸ hl) hfed.agent hfed.idle hstaged hk
  have hwaited : k - 3 + (if k + 1 < 4 then 0 else 1) = k + 1 - 3 := by split <;> omega
  refine ⟨v, deliver_singleton (hbyte.trans hpass), fun _ => hresult, hdec.trans hfed.idle,
    hinv.trans (hfed.invocations.trans h.invocations), (staged_of_sameStaging hstaging ch).trans hstaged,
    (congrArg Ring.used (hrings _)).trans hfed.empty, ?_, hvconfig.trans hconfig⟩
  rw [hstats, hfed.stats, h.stats, Stats.waited_waited, hwaited]

theorem deliver_partialFrame (hd : s.decState = .idle) (hfill : (s.staging ch).fill = 0) (he : (s.ring (.inb ch)).used = 0)
    {k : Nat} (hk : k < 4 + p.length) :
    ∃ t, deliver ch ((frameOf id p).take k) s = .next t ∧ PartlyDelivered ch (frameOf id p) k s t := by
  induction k with
  | zero =>
    have hnone : s.staged ch = [] := List.eq_nil_of_length_eq_zero ((staged_length s ch).trans hfill)
    exact ⟨s, rfl, fun h => absurd h (lt_irrefl 0), hd, rfl, hnone, he, s.stats.waited_zero.symm, rfl⟩
  | succ k ih =>
    obtain ⟨t, hdeliver, ht⟩ := ih (by omega)
    obtain ⟨v, hbyte, hv⟩ := ht.next hp hmin hmax hl hk
    refine ⟨v, ?_, hv⟩
    rw [← List.take_append_getElem (by rw [frameOf_length]; omega), deliver_append _ hdeliver, hbyte]

/-- The last byte of a frame completes it, and its pass dispatches it. -/
theorem deliver_frame (hd : s.decState = .idle) (hfill : (s.staging ch).fill = 0) (he : (s.ring (.inb ch)).used = 0) :
    ∃ t, deliver ch (frameOf id p) s = .next t ∧ t.result = .dispatched ∧
      t.decState = .inHandler ⟨ch, id, headerAndPayload id p, 2 + p.length, 0⟩ ∧
      t.stats = ((s.stats.waited p.length).bump .framesAttempted).bump .dispatched := by
  have hlen := frameOf_length id p
  obtain ⟨t, hdeliver, ht⟩ := deliver_partialFrame hp hmin hmax hl hd hfill he (k := p.length + 3) (by omega)
  obtain ⟨u, hbyte, hfed, hstaged⟩ := ht.feed hp (by omega)
  have hwhole : (frameOf id p).take (p.length + 3 + 1) = frameOf id p := List.take_of_length_le hlen.le
  have hfront : u.staged ch = frameOf id p ++ [] := by rw [hstaged, hwhole, List.append_nil]
  obtain ⟨v, hpass, hresult, hdec, -, hstats, -⟩ := decPassDispatchesValidFrame u ch d id p [] hfed.agent hfed.idle hfront
    (hfed.config.trans ht.config ▸ hl) hmin hmax hp
  refine ⟨v, ?_, hresult, hdec, ?_⟩
  · rw [← hwhole, ← List.take_append_getElem (by omega), deliver_append _ hdeliver]
    exact deliver_singleton (hbyte.trans hpass)
  · rw [hstats, hfed.stats, ht.stats, Nat.add_sub_cancel]

end Delivery

/-- Settles O28: each byte before the last leaves a frame staged that lacks its last bytes, and a pass waits for them. -/
theorem partialDeliveryDispatchesAtLastByte : Obligations.PartialDeliveryDispatchesAtLastByte := by
  intro s ch d id p hd hfill he hl hmin hmax hp
  refine ⟨fun k hk => ?_, ?_⟩
  · obtain ⟨t, hdeliver, ht⟩ := deliver_partialFrame hp hmin hmax hl hd hfill he hk
    refine ⟨t, hdeliver, ht.result, ht.idle, ht.invocations, ht.staged, ?_⟩
    rw [ht.stats]
    exact ⟨rfl, rfl, rfl, rfl, rfl⟩
  · obtain ⟨t, hdeliver, hresult, hdec, hstats⟩ := deliver_frame hp hmin hmax hl hd hfill he
    refine ⟨t, hdeliver, hresult, hdec, ?_⟩
    rw [hstats]
    exact ⟨rfl, rfl, rfl⟩

end Sys2Proof.Machine
end

section
/-! SUPPORT. Dispatch and the encoder (43_dispatch_encoder): when a command table is well-formed (R170), the handler's return
and its contract (R172, R174), the encoder's faults and its frame in a ring with room (R192, R194), and the commands as steps of
the running handler. -/

namespace Sys2Proof.Machine

/-! ### Well-formed tables (R170, R235) -/

theorem tableWf_cons {d : Descriptor} {rest : List Descriptor} : tableWf (d :: rest) = true ↔
    d.commandId ∉ rest.map Descriptor.commandId ∧ (d.min ≤ d.max ∧ d.max ≤ 255 ∧ d.handler ≠ none) ∧ tableWf rest = true := by
  have hdistinct : rest.all (fun e => e.commandId != d.commandId) = true ↔ d.commandId ∉ rest.map Descriptor.commandId := by
    simp
  simp only [tableWf, Bool.and_eq_true, hdistinct, decide_eq_true_eq, Option.isSome_iff_ne_none, and_assoc]

theorem tableWf_iff {table : List Descriptor} : tableWf table = true ↔
    (table.map Descriptor.commandId).Nodup ∧ ∀ d ∈ table, d.min ≤ d.max ∧ d.max ≤ 255 ∧ d.handler ≠ none := by
  induction table with
  | nil => simp [tableWf]
  | cons d rest ih =>
    rw [tableWf_cons, ih, List.map_cons, List.nodup_cons, List.forall_mem_cons]
    tauto

theorem step_illFormedTable {s : State} (h : tableWf (tableOf s.config) = false) : step s = .refused .illFormedTable := by
  simp [step, fetch, h]

/-- Settles O16: the entries are compared one with those behind it, and the table is the first thing a step checks. -/
theorem illFormedTableIsRefused : Obligations.IllFormedTableIsRefused := fun _ _ =>
  ⟨tableWf_iff, fun htable hwf => step_illFormedTable (htable ▸ hwf)⟩

/-! ### The handler's return (R172, R174) -/

theorem settle_error_marked (s : State) (r : FaultReason) : settle s (.error r) = .next (marked s r) := by
  rw [settle_error, raise_eq_marked]

/-- The state after the return of handler `h` (R174). -/
def State.returned (s : State) (h : HandlerRun) : State :=
  (((s.setStaging h.ch (s.staging h.ch).clear).count .dispatchedCompleted).setControl .idle).finish .commandProcessed

theorem hndRet_eq {s : State} {h : HandlerRun} (status : Byte) (ha : s.agent = .main) (hd : s.decState = .inHandler h)
    (hs : h.sends = 1) : exec (.hndRet status) s = .next (s.returned h) := by
  simp [exec, execHndRet, handlerReturn, State.returned, ha, hd, hs]

/-- Settles O29: emptying a staging buffer keeps its cells, and the return writes no other register. -/
theorem hndRetCompletesDispatch : Obligations.HndRetCompletesDispatch := by
  intro s h status ha hd hs
  have hstaging : (s.returned h).staging h.ch = (s.staging h.ch).clear := by simp [State.returned]
  have hother : SameStagingBut h.ch s (s.returned h) := fun c hc => by
    simp [State.returned, setStaging_staging_other s h.ch c _ hc]
  exact ⟨s.returned h, hndRet_eq status ha hd hs, rfl, rfl, by rw [hstaging, Staging.clear_fill],
    by rw [State.staged, hstaging, Staging.clear_bytes], by rw [hstaging]; rfl, by simp [State.returned],
    by simp [State.returned], by simp [State.returned], hother, by simp [SameRings, State.returned],
    by simp [SameCrc, State.returned], by simp [SameKeys, State.returned], by simp [SameTransport, State.returned],
    by simp [SameControl, State.returned]⟩

theorem handlerReturn_idle {s : State} (ha : s.agent = .main) (hd : s.decState = .idle) :
    handlerReturn s = .error .handlerContract := by
  simp [handlerReturn, ha, hd]

/-- A handler that has not sent, or has sent more than once, may not return (R172). -/
theorem handlerReturn_refused {s : State} {h : HandlerRun} (ha : s.agent = .main) (hd : s.decState = .inHandler h)
    (hs : h.sends ≠ 1) : handlerReturn s = .error .handlerContract := by
  simp [handlerReturn, ha, hd, hs]

/-- Settles O30: either way the return fails its contract, and the step marks the fault. -/
theorem hndRetChecksContract : Obligations.HndRetChecksContract := by
  intro s status ha hcontract
  have hrefused : handlerReturn s = .error .handlerContract := by
    obtain hd | ⟨h, hd, hs⟩ := hcontract
    · exact handlerReturn_idle ha hd
    · exact handlerReturn_refused ha hd hs
  rw [exec, execHndRet, hrefused, settle_error_marked]

/-! ### The encoder's checks, in the order of R192 -/

/-- A buffer has a size R192 refuses when it is shorter than its header or its payload is above 252. -/
theorem encoderSize_refused_iff (n : Nat) :
    (n < Config.headerSize ∨ Config.payloadMax < n - Config.headerSize) ↔ n < 2 ∨ 254 < n := by
  simp only [Config.headerSize, Config.payloadMax]
  omega

section Checks

variable {s : State} {ch : Channel} {bytes : List Byte} (set40 : Bool)

theorem encSend_otherAgent (ha : s.agent ≠ .main) : encSend s ch bytes set40 = .error .encoderOwnership := by
  rw [encSend, if_pos ha]

theorem encSend_badSize (ha : s.agent = .main) (hlen : bytes.length < 2 ∨ 254 < bytes.length) :
    encSend s ch bytes set40 = .error .encoderSize := by
  rw [encSend, if_neg (not_not_intro ha), if_pos ((encoderSize_refused_iff _).2 hlen)]

theorem encSend_contract {h : HandlerRun} (ha : s.agent = .main) (hmin : 2 ≤ bytes.length) (hmax : bytes.length ≤ 254)
    (hd : s.decState = .inHandler h) (hs : h.ch ≠ ch ∨ 1 ≤ h.sends) : encSend s ch bytes set40 = .error .handlerContract := by
  have hsize : ¬ (bytes.length < 2 ∨ 254 < bytes.length) := by omega
  have hnote : noteSend s.decState ch = .error .handlerContract := by
    rw [hd, noteSend, if_pos (hs.imp_left Ne.symm)]
  rw [encSend, if_neg (not_not_intro ha), if_neg (mt (encoderSize_refused_iff _).1 hsize), hnote]

end Checks

/-- Settles O32: both instructions are one send, which ends at its first failing check. -/
theorem encoderMisuseRaisesFault : Obligations.EncoderMisuseRaisesFault := by
  intro s ch bytes i hi
  obtain ⟨set40, hexec⟩ : ∃ set40, exec i s = settle s (encSend s ch bytes set40) := by
    obtain rfl | rfl := hi
    · exact ⟨false, rfl⟩
    · exact ⟨true, rfl⟩
  rw [hexec]
  refine ⟨fun ha => ?_, fun ha hlen => ?_, fun ha hmin hmax ⟨h, hd, hs⟩ => ?_⟩
  · rw [encSend_otherAgent set40 ha, settle_error_marked]
  · rw [encSend_badSize set40 ha hlen, settle_error_marked]
  · rw [encSend_contract set40 ha hmin hmax hd hs, settle_error_marked]

/-! ### A put with room (R101, R194) -/

/-- With room for all its bytes a put drops none: it appends them and records no overrun. -/
theorem PutsInto.append_of_room {r : RingId} {bytes : List Byte} {s t : State} (h : PutsInto r bytes s t)
    (hroom : bytes.length ≤ (s.ring r).free) : t.contents r = s.contents r ++ bytes ∧ t.events = s.events := by
  have hfits : (s.ring r).used + bytes.length ≤ 128 := by
    have hused := (s.ring r).used_le
    simp only [Ring.free, Config.ringCapacity] at hroom hused
    omega
  obtain ⟨hcontents, -, -, hevents, -⟩ := h
  rw [min_eq_right hfits, lastBytes_of_length_le (by rw [List.length_append, ← used_eq_length])] at hcontents
  rw [if_neg (Nat.not_lt.2 hfits), List.append_nil] at hevents
  exact ⟨hcontents, hevents⟩

/-- A step that leaves the fault mark clear has raised no fault. -/
theorem settle_next_unmarked {s t : State} {x : Except FaultReason State} (h : settle s x = .next t) (hs : s.faulted = none)
    (ht : t.faulted = none) : x = .ok t := by
  obtain hx | ⟨r, -, rfl⟩ := settle_next h
  · exact hx
  · simp [raise_faulted, hs] at ht

/-- Settles O33: a step without a fault has put the frame, and with room a put appends. -/
theorem encoderFrameIsWholeWithRoom : Obligations.EncoderFrameIsWholeWithRoom := by
  intro s t ch b0 b1 p hroom hexec hs ht
  obtain ⟨-, -, -, d, -, rfl⟩ := encSend_ok (settle_next_unmarked hexec hs ht)
  rw [withChecksum_encoderBuffer, if_pos rfl]
  exact (send_putsInto ..).append_of_room (by rwa [respOf_length])

/-! ### The ping response (R176) -/

theorem handlerOf_ping (p : Config.Params) : handlerOf (tableOf p) 0x00#8 = some .ping :=
  handlerOf_listed (d := ⟨0x00#8, 0, 255, some .ping⟩) p rfl

theorem pingReply_of_ne_nil {p : List Byte} (hp : p ≠ []) : pingReply p = Config.pingEcho p := by
  simp [pingReply, hp]

/-- The step of a ping dispatch that has not sent is the send of its reply through ENC.DEV. -/
theorem cmdPing_eq_encDev {s : State} {h : HandlerRun} (p : List Byte) (ha : s.agent = .main) (hd : s.decState = .inHandler h)
    (hid : h.id = 0x00#8) (hs : h.sends = 0) :
    exec (.cmdPing p) s = exec (.encDev h.ch (0x00#8 :: 0x00#8 :: pingReply p)) s := by
  have hstep : exec (.cmdPing p) s = settle s (handlerStep h.id (pingResponse p) s) := by rw [hid, exec, execCmdPing]
  rw [hstep, handlerStep_respond ha hd hs, pingResponse, exec, execEncDev]

/-- Settles O34: the step is the send of the reply, which is empty for an empty request and the echo for another. -/
theorem pingResponds : Obligations.PingResponds := by
  intro s h p ha hd hid hs
  rw [cmdPing_eq_encDev p ha hd hid hs]
  refine ⟨?_, fun hp => by rw [pingReply_of_ne_nil hp]⟩
  rintro rfl
  have hk := keypadRuns_eq_false hd (hid ▸ handlerOf_ping s.config) (by decide)
  obtain ⟨t, ht, hr⟩ := pingResponse_respondsOnce ha hd hs hk (p := []) (by simp [pingReply])
  have hnext : exec (.encDev h.ch (0x00#8 :: 0x00#8 :: pingReply [])) s = .next t := congrArg (settle s) ht
  exact ⟨t, hnext, hr.sent, respOf_emptyPing ▸ hr.puts, hr.crc, hr.staging, hr.stats, hr.keys, hr.transport, hr.control,
    hr.invocations, hr.result⟩

/-! ### The commands as handler steps (R172) -/

/-- Every listed command is a step of its running handler, with a response of its own. -/
theorem exec_command {id : Byte} {p : List Byte} {i : Instr} (h : commandOf id p = some i) :
    ∃ respond, ∀ s, exec i s = settle s (handlerStep id respond s) := by
  unfold commandOf at h
  split at h <;> cases h <;> exact ⟨_, fun _ => rfl⟩

theorem handlerStep_idle {s : State} {id : Byte} {respond : Channel → State → Except FaultReason State} (ha : s.agent = .main)
    (hd : s.decState = .idle) : handlerStep id respond s = .error .handlerContract := by
  simp [handlerStep, ha, hd]

/-- Settles O37: the command is a step of its handler, which returns once it has sent and which Idle refuses. -/
theorem commandsReturnAfterResponse : Obligations.CommandsReturnAfterResponse := by
  intro s p status i id hi ha
  have hcommand : commandOf id p = some i := by
    simp only [List.mem_cons, Prod.mk.injEq, List.not_mem_nil, or_false] at hi
    obtain ⟨rfl, rfl⟩ | ⟨rfl, rfl⟩ | ⟨rfl, rfl⟩ | ⟨rfl, rfl⟩ | ⟨rfl, rfl⟩ | ⟨rfl, rfl⟩ | ⟨rfl, rfl⟩ | ⟨rfl, rfl⟩ | ⟨rfl, rfl⟩ |
      ⟨rfl, rfl⟩ | ⟨rfl, rfl⟩ | ⟨rfl, rfl⟩ | ⟨rfl, rfl⟩ := hi <;> rfl
  obtain ⟨respond, hexec⟩ := exec_command hcommand
  rw [hexec]
  refine ⟨fun h hd hid hs => ?_, fun hd => ?_⟩
  · subst hid
    rw [handlerStep_return ha hd hs, exec, execHndRet]
  · rw [handlerStep_idle ha hd, settle_error_marked]

end Sys2Proof.Machine
end

section
/-! SUPPORT. The transports (44_transport): what TX.START and TX.DONE leave unchanged, their effect for TX(ch) (R212, R213), and the
faults of another agent or against the latch. -/

namespace Sys2Proof.Machine

/-! ### The frame of a transport operation (R29, R212) -/

/-- From `s` to `t` nothing changes but OUT(ch), the latch and the wire of `ch`, and the result. -/
structure OnlyTransmission (ch : Channel) (s t : State) : Prop where
  rings : SameRingsBut (.outb ch) s t
  transport : SameTransportBut ch s t
  crc : SameCrc s t
  staging : SameStaging s t
  stats : SameStats s t
  keys : SameKeys s t
  dispatch : SameDispatch s t
  control : SameControl s t
  events : t.events = s.events

theorem onlyTransmission_consume (s : State) (ch : Channel) (max : Nat) :
    OnlyTransmission ch s (s.consume (.outb ch) max) := by
  have h := onlyRing_consume s (.outb ch) max
  exact ⟨h.rings, ⟨fun c _ => h.transport.1 c, fun c _ => h.transport.2 c⟩, h.crc, h.staging, h.stats, h.keys, h.dispatch,
    h.control, by simp⟩

theorem onlyTransmission_setLatch (s : State) (ch : Channel) (x : Latch) : OnlyTransmission ch s (s.setLatch ch x) where
  rings q _ := setLatch_ring s ch x q
  transport := ⟨fun c hc => setLatch_latch_other s ch c x hc, fun c _ => setLatch_wire s ch x c⟩
  crc := by simp [SameCrc]
  staging := by simp [SameStaging]
  stats := by simp [SameStats]
  keys := by simp [SameKeys]
  dispatch := by simp [SameDispatch]
  control := by simp [SameControl]
  events := by simp

theorem onlyTransmission_send (s : State) (ch : Channel) (out : List Byte) : OnlyTransmission ch s (s.send ch out) where
  rings q _ := send_ring s ch out q
  transport := ⟨fun c _ => send_latch s ch out c, fun c hc => send_wire_other s ch c out hc⟩
  crc := by simp [SameCrc]
  staging := by simp [SameStaging]
  stats := by simp [SameStats]
  keys := by simp [SameKeys]
  dispatch := by simp [SameDispatch]
  control := by simp [SameControl]
  events := by simp

theorem OnlyTransmission.trans {ch : Channel} {s u t : State} (h : OnlyTransmission ch s u) (k : OnlyTransmission ch u t) :
    OnlyTransmission ch s t where
  rings q hq := (k.rings q hq).trans (h.rings q hq)
  transport := ⟨fun c hc => (k.transport.1 c hc).trans (h.transport.1 c hc),
    fun c hc => (k.transport.2 c hc).trans (h.transport.2 c hc)⟩
  crc := ⟨k.crc.1.trans h.crc.1, k.crc.2.trans h.crc.2⟩
  staging c := (k.staging c).trans (h.staging c)
  stats := Eq.trans k.stats h.stats
  keys := Eq.trans k.keys h.keys
  dispatch := ⟨k.dispatch.1.trans h.dispatch.1, k.dispatch.2.trans h.dispatch.2⟩
  control := by
    obtain ⟨hfault, hconfig, hagent, hdraw, hpending⟩ := h.control
    obtain ⟨kfault, kconfig, kagent, kdraw, kpending⟩ := k.control
    exact ⟨kfault.trans hfault, kconfig.trans hconfig, kagent.trans hagent, kdraw.trans hdraw, kpending.trans hpending⟩
  events := k.events.trans h.events

theorem OnlyTransmission.finish {ch : Channel} {s t : State} (h : OnlyTransmission ch s t) (x : Result) :
    OnlyTransmission ch s (t.finish x) :=
  ⟨h.rings, h.transport, h.crc, h.staging, h.stats, h.keys, h.dispatch, h.control, h.events⟩

/-! ### TX.START for TX(ch) with a clear latch (R212) -/

/-- The chunk goes to the latch and the wire, unless it is empty (R212). -/
def State.transmit (s : State) (ch : Channel) (out : List Byte) : State :=
  if 0 < out.length then (s.setLatch ch ⟨true, out⟩).send ch out else s

/-- The state after a start: the chunk has left the front of OUT(ch) (R212). -/
def State.started (s : State) (ch : Channel) : State :=
  let out := s.front (.outb ch) s.config.txChunk
  ((s.consume (.outb ch) s.config.txChunk).transmit ch out).finish (.count out.length)

section Transmit

variable (s : State) (ch : Channel)

@[simp] theorem transmit_nil : s.transmit ch [] = s := rfl

theorem transmit_of_pos {out : List Byte} (h : 0 < out.length) :
    s.transmit ch out = (s.setLatch ch ⟨true, out⟩).send ch out := if_pos h

@[simp] theorem transmit_wire (out : List Byte) : (s.transmit ch out).wire ch = s.wire ch ++ out := by
  cases out with
  | nil => simp
  | cons b rest => simp [transmit_of_pos]

@[simp] theorem transmit_ring (out : List Byte) (q : RingId) : (s.transmit ch out).ring q = s.ring q := by
  cases out with
  | nil => simp
  | cons b rest => simp [transmit_of_pos]

theorem transmit_latch {out : List Byte} (h : 0 < out.length) : (s.transmit ch out).latch ch = ⟨true, out⟩ := by
  simp [transmit_of_pos s ch h]

theorem OnlyTransmission.transmit {s u : State} {ch : Channel} (h : OnlyTransmission ch s u) (out : List Byte) :
    OnlyTransmission ch s (u.transmit ch out) := by
  cases out with
  | nil => exact h
  | cons b rest => exact (h.trans (onlyTransmission_setLatch u ch _)).trans (onlyTransmission_send _ ch _)

theorem onlyTransmission_started : OnlyTransmission ch s (s.started ch) :=
  ((onlyTransmission_consume s ch _).transmit _).finish _

theorem started_ring :
    (s.started ch).ring (.outb ch) = (s.ring (.outb ch)).advance (min s.config.txChunk (s.ring (.outb ch)).used) := by
  simp [State.started, consume_ring_self]

theorem started_wire : (s.started ch).wire ch = s.wire ch ++ s.front (.outb ch) s.config.txChunk := by
  simp [State.started]

theorem started_latch (h : 0 < (s.front (.outb ch) s.config.txChunk).length) :
    (s.started ch).latch ch = ⟨true, s.front (.outb ch) s.config.txChunk⟩ := by
  simp [State.started, transmit_latch _ _ h]

theorem started_latch_empty (h : s.front (.outb ch) s.config.txChunk = []) : (s.started ch).latch ch = s.latch ch := by
  simp [State.started, h]

/-- TX_CHUNK is at least 1, so the chunk is empty exactly when the ring is (R7, R212). -/
theorem front_txChunk_pos (r : RingId) : 0 < (s.front r s.config.txChunk).length ↔ 0 < (s.ring r).used := by
  rw [front_length, Config.Params.txChunk]
  omega

end Transmit

/-! ### The two operations, by agent and latch (R212, R213) -/

section Checks

variable {s : State} {ch : Channel}

theorem txStart_eq (ha : s.agent = .tx ch) (hb : (s.latch ch).busy = false) :
    exec (.txStart ch) s = .next (s.started ch) := by
  simp [exec, execTxStart, State.started, State.transmit, ha, hb]

theorem txDone_eq (ha : s.agent = .tx ch) (hb : (s.latch ch).busy = true) :
    exec (.txDone ch) s = .next ((s.setLatch ch ⟨false, []⟩).finish .none) := by
  simp [exec, execTxDone, ha, hb]

theorem txStart_otherAgent (ha : s.agent ≠ .tx ch) : exec (.txStart ch) s = .next (marked s .ringOwnership) := by
  rw [exec, execTxStart, if_pos ha, settle_error_marked]

theorem txDone_otherAgent (ha : s.agent ≠ .tx ch) : exec (.txDone ch) s = .next (marked s .ringOwnership) := by
  rw [exec, execTxDone, if_pos ha, settle_error_marked]

theorem txStart_busy (ha : s.agent = .tx ch) (hb : (s.latch ch).busy = true) :
    exec (.txStart ch) s = .next (marked s .txLatch) := by
  rw [exec, execTxStart, if_neg (not_not_intro ha), if_pos hb, settle_error_marked]

theorem txDone_idle (ha : s.agent = .tx ch) (hb : (s.latch ch).busy = false) :
    exec (.txDone ch) s = .next (marked s .txLatch) := by
  rw [exec, execTxDone, if_neg (not_not_intro ha), if_pos (by simp [hb]), settle_error_marked]

end Checks

/-- Settles O38: the chunk is the front of the ring, which the start removes and sends; it is empty exactly when the ring is. -/
theorem txStartSendsChunk : Obligations.TxStartSendsChunk := by
  intro s ch ha hb
  have hframe := onlyTransmission_started s ch
  have hring := started_ring s ch
  have hout : s.front (.outb ch) s.config.txChunk =
      (s.contents (.outb ch)).take (min s.config.txChunk (s.ring (.outb ch)).used) := front_take ..
  refine ⟨s.started ch, _, _, rfl, hout, txStart_eq ha hb, by simp [State.started], started_wire s ch, ?_, by rw [hring]; rfl,
    by rw [hring]; rfl, by rw [hring, Ring.advance_tail], fun hused => ?_, fun hused => ?_, hframe.rings, hframe.transport,
    hframe.crc, hframe.staging, hframe.stats, hframe.keys, hframe.dispatch, hframe.control, hframe.events⟩
  · rw [State.contents, hring]
    exact Ring.advance_contents _ _ _ (min_le_right _ _)
  · have hpos := (front_txChunk_pos s (.outb ch)).2 hused
    exact ⟨started_latch s ch hpos, hpos⟩
  · have hn : min s.config.txChunk (s.ring (.outb ch)).used = 0 := by rw [hused, Nat.min_zero]
    exact ⟨started_latch_empty s ch (by rw [hout, hn, List.take_zero]), hn⟩

/-- Settles O39: the one update is of the latch, which is no ring and no wire. -/
theorem txDoneClearsLatch : Obligations.TxDoneClearsLatch := by
  intro s ch ha hb
  have hframe := (onlyTransmission_setLatch s ch ⟨false, []⟩).finish .none
  exact ⟨_, txDone_eq ha hb, by simp, by simp, rfl, hframe.transport, fun q => by simp, hframe.crc, hframe.staging, hframe.stats,
    hframe.keys, hframe.dispatch, hframe.control, hframe.events⟩

/-- Settles O40: the agent is checked first, then the latch. -/
theorem txMisuseRaisesFault : Obligations.TxMisuseRaisesFault := fun _ _ =>
  ⟨fun ha => ⟨txStart_otherAgent ha, txDone_otherAgent ha⟩, txStart_busy, txDone_idle⟩

end Sys2Proof.Machine
end

section
/-! SUPPORT. Errors and faults (60_exceptions): the completions owed (R249), the events of a pass (R233), and the steps of a faulted
state (R237). -/

namespace Sys2Proof.Machine

/-! ### The completions owed (R249) -/

/-- The law reads two counters and whether a handler runs. -/
theorem completionsOwed_congr {s t : State} (hd : t.stats.dispatched = s.stats.dispatched)
    (hc : t.stats.dispatchedCompleted = s.stats.dispatchedCompleted) (hr : t.running = s.running) :
    t.completionsOwed ↔ s.completionsOwed := by
  simp only [State.completionsOwed, hd, hc, hr]

/-- In Idle as many frames are completed as dispatched. -/
theorem completionsOwed_iff_of_idle {s : State} (h : s.decState = .idle) :
    s.completionsOwed ↔ s.stats.dispatched = s.stats.dispatchedCompleted := by
  simpa [State.completionsOwed, running_of_idle h] using sub_eq_zero (a := s.stats.dispatched)

/-- While a handler runs, one frame more is dispatched than completed. -/
theorem completionsOwed_iff_of_handler {s : State} {run : HandlerRun} (h : s.decState = .inHandler run) :
    s.completionsOwed ↔ s.stats.dispatched = s.stats.dispatchedCompleted + 1 := by
  simp [State.completionsOwed, running_of_handler h, sub_eq_iff_eq_add']

/-- A pass owes nothing before its dispatch, and one completion after it (R152). -/
theorem passLoop_completionsOwed {s : State} {ch : Channel} (hidle : s.decState = .idle) (h : s.completionsOwed) :
    (passLoop ch (s.staging ch).fill s).completionsOwed := by
  obtain ⟨k, u, hrun, hdone⟩ := passLoop_resynced ch _ s le_rfl
  have hu : u.completionsOwed :=
    (completionsOwed_congr hrun.dispatched hrun.completed (by simp [State.running, hrun.decState])).2 h
  obtain ⟨-, ht⟩ | ⟨-, ⟨id, req, -, ht⟩ | ⟨n, -, ht⟩⟩ := attempt_done hdone <;> rw [ht]
  · exact hu
  · exact hu
  · rw [completionsOwed_iff_of_idle (hrun.decState.trans hidle)] at hu
    rw [completionsOwed_iff_of_handler rfl]
    simpa [Stats.bump] using hu

/-- A return completes the one frame owed (R174). -/
theorem handlerReturn_completionsOwed {s t : State} (hr : handlerReturn s = .ok t) (h : s.completionsOwed) :
    t.completionsOwed := by
  obtain ⟨-, run, hrun, -, rfl⟩ := handlerReturn_ok hr
  rw [completionsOwed_iff_of_handler hrun] at h
  rw [completionsOwed_iff_of_idle rfl]
  simpa [Stats.bump] using h

/-- A send neither starts nor ends a handler (R172). -/
theorem encSend_running {s t : State} {ch : Channel} {bytes : List Byte} {set40 : Bool} (h : encSend s ch bytes set40 = .ok t) :
    t.running = s.running := by
  obtain ⟨-, -, -, d, hd, rfl⟩ := encSend_ok h
  obtain ⟨hidle, hok⟩ | ⟨run, hrun, -, -, hok⟩ | ⟨run, -, -, herr⟩ := noteSend_cases s.decState ch
  · obtain rfl := Except.ok.inj (hok.symm.trans hd)
    simp [State.running, hidle]
  · obtain rfl := Except.ok.inj (hok.symm.trans hd)
    simp [State.running, hrun]
  · cases herr.symm.trans hd

theorem effect_completionsOwed {i : Instr} {s t : State} (h : s.completionsOwed) (he : Effect i s t) : t.completionsOwed := by
  cases he
  case pass hr => exact passLoop_completionsOwed (idle_of_not_running hr) h
  case returns hr => exact handlerReturn_completionsOwed hr h
  case sends hs =>
    have hrunning := encSend_running hs
    obtain ⟨-, -, -, d, -, rfl⟩ := encSend_ok hs
    exact (completionsOwed_congr (by simp) (by simp) hrunning).2 h
  all_goals exact (completionsOwed_congr (by simp) (by simp) (by simp)).2 h

theorem Issued.completionsOwed_iff {s u : State} (h : Issued s u) : u.completionsOwed ↔ s.completionsOwed := by
  obtain ⟨ag, d, rest, rfl⟩ := h
  rfl

/-- Settles O46: a dispatch starts a handler and a return ends it, each with its counter, and no other effect does either. -/
theorem stepKeepsCompletionsOwed : Obligations.StepKeepsCompletionsOwed := by
  intro s t howed h
  obtain rfl | ⟨rest, -, rfl⟩ | ⟨i, u, hu, -, he, -⟩ := step_effect h
  · exact howed
  · exact (completionsOwed_iff_of_idle rfl).2 rfl
  · exact effect_completionsOwed (hu.completionsOwed_iff.2 howed) he

/-! ### The events of a pass (R230, R233) -/

/-- From `s` to `t` the pass has recorded `rejects`, one event of code 0, 1 or 2 for each byte it discarded. -/
structure RecordsRejects (ch : Channel) (s t : State) (rejects : List Event) : Prop where
  events : t.events = s.events ++ rejects
  code : ∀ e ∈ rejects, e.code ≤ 2
  fill : (t.staging ch).fill + rejects.length = (s.staging ch).fill

theorem RecordsRejects.refl (ch : Channel) (s : State) : RecordsRejects ch s s [] :=
  ⟨(List.append_nil _).symm, by simp, rfl⟩

/-- A rejected attempt records the code of its failed check (R148, R149, R151). -/
theorem attempt_again_event {ch : Channel} {s t : State} (h : attempt ch s = .again t) :
    ∃ e : Event, e.code ≤ 2 ∧ t.events = s.events ++ [e] := by
  unfold attempt at h
  split at h
  · cases h
  · dsimp only at h
    split at h <;> cases h
    · next id _ => exact ⟨.unknownCommand ch id, by simp [Event.code], by simp [State.reject]⟩
    · next id n _ => exact ⟨.payloadSizeOutOfRange ch id n, by simp [Event.code], by simp [State.reject]⟩
    · next id computed received _ => exact ⟨.checksumMismatch ch id computed received, by simp [Event.code], by simp [State.reject]⟩

/-- One more rejection behind. -/
theorem RecordsRejects.step {ch : Channel} {s u t : State} {rejects : List Event} (h : RecordsRejects ch s u rejects)
    (ht : attempt ch u = .again t) : ∃ e, RecordsRejects ch s t (rejects ++ [e]) := by
  obtain ⟨e, hcode, hevents⟩ := attempt_again_event ht
  refine ⟨e, by rw [hevents, h.events, List.append_assoc], ?_, ?_⟩
  · simpa [or_imp, forall_and] using ⟨h.code, hcode⟩
  · obtain ⟨hmin, n, e', -, rfl⟩ := attempt_again ht
    have hfill := h.fill
    simp only [Config.minFrame] at hmin
    simp only [reject_fill, count_staging, List.length_append, List.length_singleton]
    omega

/-- The trip that returns records the code 3 alone, and that only where it waits (R150). -/
theorem attempt_done_event {ch : Channel} {s t : State} (h : attempt ch s = .done t) :
    ∃ last, t.events = s.events ++ last ∧ (last = [] ∨ (t.result = .noCommand ∧ ∃ e : Event, last = [e] ∧ e.code = 3)) := by
  obtain ⟨-, rfl⟩ | ⟨-, ⟨id, req, -, rfl⟩ | ⟨n, -, rfl⟩⟩ := attempt_done h
  · exact ⟨[], by simp, .inl rfl⟩
  · exact ⟨[.incompleteFrame ch id (s.staging ch).fill req], by simp, .inr ⟨rfl, _, rfl, rfl⟩⟩
  · exact ⟨[], by simp, .inl rfl⟩

/-- The events of a pass from `s` to `t`: one for each byte discarded, and after them the one of the trip that returns. -/
def PassEvents (ch : Channel) (s t : State) : Prop :=
  ∃ rejects last, t.events = s.events ++ rejects ++ last ∧ (∀ e ∈ rejects, e.code ≤ 2) ∧
    (t.staging ch).fill + rejects.length = (s.staging ch).fill ∧
    (last = [] ∨ (t.result = .noCommand ∧ ∃ e : Event, last = [e] ∧ e.code = 3))

theorem passLoop_events (ch : Channel) (fuel : Nat) (s : State) : PassEvents ch s (passLoop ch fuel s) := by
  refine passLoop_induction (P := fun u => ∃ rejects, RecordsRejects ch s u rejects) (Q := PassEvents ch s) ?_ ?_ ?_ fuel s
    ⟨[], .refl ch s⟩
  · rintro u t ⟨rejects, hu⟩ ha
    obtain ⟨e, ht⟩ := hu.step ha
    exact ⟨_, ht⟩
  · rintro u t ⟨rejects, hu⟩ ha
    obtain ⟨last, hevents, hlast⟩ := attempt_done_event ha
    obtain ⟨-, hstaging⟩ := attempt_done_frame ha
    exact ⟨rejects, last, by rw [hevents, hu.events], hu.code, by rw [hstaging ch, hu.fill], hlast⟩
  · rintro u ⟨rejects, hu⟩
    exact ⟨rejects, [], by simpa using hu.events, hu.code, by simpa using hu.fill, .inl rfl⟩

/-- Settles O25: every rejected attempt records its check and discards one byte, and the trip that returns records at most a wait. -/
theorem decPassEventsInOrder : Obligations.DecPassEventsInOrder := by
  intro s ch ha hd _
  obtain ⟨rejects, last, hpass⟩ := passLoop_events ch (s.staging ch).fill s
  exact ⟨_, rejects, last, decPass_eq ha hd, hpass⟩

/-! ### A faulted state (R31, R236, R237, R260) -/

/-- Behind a set mark every input but the reset event halts (R237). -/
theorem step_halted {s : State} {r : FaultReason} {x : Input} {rest : List Input} (ht : tableWf (tableOf s.config) = true)
    (hf : s.faulted = some r) (hp : s.pending = x :: rest) (hx : x ≠ .reset) : step s = .fault (.halted r) := by
  have hfetch : fetch s = .halted r := by
    cases x with
    | reset => exact absurd rfl hx
    | port ag q => simp [fetch, ht, hp, hf]
    | handler d => simp [fetch, ht, hp, hf]
  simp [step, hfetch]

/-- The reset event is taken whether or not the state is faulted (R260). -/
theorem step_reset {s : State} {rest : List Input} (ht : tableWf (tableOf s.config) = true) (hp : s.pending = .reset :: rest) :
    step s = .next (s.resetEvent rest) := by
  simp [step, fetch, ht, hp]

/-- Settles O48: the mark is looked at before every input but the reset event, which clears it. -/
theorem faultedStateOnlyResets : Obligations.FaultedStateOnlyResets := by
  refine fun s r x rest ht hf hp => ⟨step_halted ht hf hp, ?_⟩
  rintro rfl
  exact ⟨_, step_reset ht hp, rfl, rfl⟩

end Sys2Proof.Machine
end

section
/-! SUPPORT. The reset event (70_reset_and_hazards): each register of the state after it is that of the reset state (R260), which meets
the invariants. -/

namespace Sys2Proof.Machine

section ResetEvent
variable (s : State) (rest : List Input)

@[simp] theorem resetEvent_ring (r : RingId) : (s.resetEvent rest).ring r = State.reset.ring r := by
  rcases r with (_ | _) | (_ | _) <;> rfl
@[simp] theorem resetEvent_staging (c : Channel) : (s.resetEvent rest).staging c = State.reset.staging c := by cases c <;> rfl
@[simp] theorem resetEvent_latch (c : Channel) : (s.resetEvent rest).latch c = State.reset.latch c := by cases c <;> rfl
@[simp] theorem resetEvent_contents (r : RingId) : (s.resetEvent rest).contents r = State.reset.contents r := by
  simp only [State.contents, resetEvent_ring]

/-- An emptied staging buffer holds no staged byte (R26). -/
@[simp] theorem resetEvent_staged (c : Channel) : (s.resetEvent rest).staged c = [] := by
  simp [State.staged, Staging.bytes, Staging.reset]

/-- With nothing in the schedule, the reset event leaves the reset state as it is. -/
theorem resetEvent_reset : State.reset.resetEvent [] = State.reset := rfl

end ResetEvent

/-- Settles O50: the step is the reset event, whose registers are those of the reset state. -/
theorem resetEventClearsEverything : Obligations.ResetEventClearsEverything := by
  intro s rest ht hp
  obtain ⟨hrings, hcrc, hfill, hstats, hkeys, hlatch, hidle, hfaulted, -⟩ := resetStateHasSpecValues
  refine ⟨s.resetEvent rest, step_reset ht hp, fun r => ?_, hcrc, fun c => ?_, hstats, hkeys, fun c => ?_, hidle, hfaulted,
    resetEvent_wire s rest, rfl, rfl⟩
  · simpa only [resetEvent_ring, resetEvent_contents] using hrings r
  · exact ⟨by simpa only [resetEvent_staging] using hfill c, resetEvent_staged s rest c⟩
  · exact (resetEvent_latch s rest c).trans (hlatch c)

/-- Settles O57: the storages are empty, the counters are all 0, and no handler runs. -/
theorem resetMeetsInvariants : Obligations.ResetMeetsInvariants := by
  refine ⟨?wf, ?balanced, ?completionsOwed, ?frameStaged⟩
  case wf => exact resetEvent_reset ▸ resetEvent_wf State.reset []
  case balanced => rfl
  case completionsOwed => exact (completionsOwed_iff_of_idle rfl).2 rfl
  case frameStaged => exact frameStaged_of_idle rfl

end Sys2Proof.Machine
end
